-- ==== Sys2Proof/Word.lean ====
section
/-! DEFINITION. The widths of the block's data: 8-bit bytes, 16-bit bus addresses, the 26-bit transaction word
(00_scope.md R7, 30_encoding.md R81). -/

namespace Sys2Proof

/-- A data byte of either port (R7). -/
abbrev Byte := BitVec 8

/-- A bus address of either port (R7). -/
abbrev Addr := BitVec 16

/-- A transaction word, `{P, W, A[15:0], D[7:0]}` (R81). -/
abbrev TxnWord := BitVec 26

end Sys2Proof
end

