-- ==== Sys2Proof/Syntax.lean ====
section
/-! DEFINITION. The operations of the block: one constructor per row of the decode table (30_encoding.md R84).
`addr` is the 16-bit bus address and `val` the written byte (R82); a read carries no value. -/

namespace Sys2Proof

/-- A decoded bus transaction (R80, R84). The address ranges are those of `Instr.wf`. -/
inductive Instr where
  /-- Row 1, R100: CPU read in the switchable PRG window. -/
  | cpuRdPrgSwitch (addr : Addr)
  /-- Row 2, R102: CPU read in the fixed PRG window. -/
  | cpuRdPrgFixed (addr : Addr)
  /-- Row 3, R103: CPU read outside $8000–$FFFF. -/
  | cpuRdUnmapped (addr : Addr)
  /-- Row 4, R104: CPU write of the bank-select register. -/
  | cpuWrBanksel (addr : Addr) (val : Byte)
  /-- Row 5, R105: CPU write outside $8000–$FFFF. -/
  | cpuWrUnmapped (addr : Addr) (val : Byte)
  /-- Row 6, R130: PPU read of a pattern-table byte. -/
  | ppuRdPattern (addr : Addr)
  /-- Row 7, R131: PPU write of a pattern-table byte. -/
  | ppuWrPattern (addr : Addr) (val : Byte)
  /-- Row 8, R141: PPU read of a nametable byte. -/
  | ppuRdNt (addr : Addr)
  /-- Row 9, R142: PPU write of a nametable byte. -/
  | ppuWrNt (addr : Addr) (val : Byte)
  /-- Row 10, R145: PPU read in $3F00–$3FFF. -/
  | ppuRdUnmapped3F (addr : Addr)
  /-- Row 11, R146: PPU write in $3F00–$3FFF. -/
  | ppuWrUnmapped3F (addr : Addr) (val : Byte)
  /-- Row 12, R143: PPU read in the nametable mirror. -/
  | ppuRdNtMirror (addr : Addr)
  /-- Row 13, R144: PPU write in the nametable mirror. -/
  | ppuWrNtMirror (addr : Addr) (val : Byte)
  /-- Row 14, R147: PPU read in $4000–$FFFF. -/
  | ppuRdUnmapped (addr : Addr)
  /-- Row 15, R148: PPU write in $4000–$FFFF. -/
  | ppuWrUnmapped (addr : Addr) (val : Byte)
  deriving DecidableEq, Repr

end Sys2Proof
end

