-- ==== Sys2Proof/WellFormed.lean ====
section
/-! DEFINITION. Which operations a transaction word can carry: each row's address range (30_encoding.md R84,
column "address range received"). -/

namespace Sys2Proof

/-- `lo ≤ a ≤ hi`, as R84 writes its ranges. -/
def Addr.within (a : Addr) (lo hi : Nat) : Bool := decide (lo ≤ a.toNat) && decide (a.toNat ≤ hi)

/-- The operation's address lies in the range its row receives under first-match decoding (R84). -/
def Instr.wf : Instr → Bool
  | .cpuRdPrgSwitch a => Addr.within a 0x8000 0xBFFF
  | .cpuRdPrgFixed a => Addr.within a 0xC000 0xFFFF
  | .cpuRdUnmapped a => Addr.within a 0x0000 0x7FFF
  | .cpuWrBanksel a _ => Addr.within a 0x8000 0xFFFF
  | .cpuWrUnmapped a _ => Addr.within a 0x0000 0x7FFF
  | .ppuRdPattern a => Addr.within a 0x0000 0x1FFF
  | .ppuWrPattern a _ => Addr.within a 0x0000 0x1FFF
  | .ppuRdNt a => Addr.within a 0x2000 0x2FFF
  | .ppuWrNt a _ => Addr.within a 0x2000 0x2FFF
  | .ppuRdUnmapped3F a => Addr.within a 0x3F00 0x3FFF
  | .ppuWrUnmapped3F a _ => Addr.within a 0x3F00 0x3FFF
  | .ppuRdNtMirror a => Addr.within a 0x3000 0x3EFF
  | .ppuWrNtMirror a _ => Addr.within a 0x3000 0x3EFF
  | .ppuRdUnmapped a => Addr.within a 0x4000 0xFFFF
  | .ppuWrUnmapped a _ => Addr.within a 0x4000 0xFFFF

/-- The operation arrives on the CPU port (`P = 0`, R81). -/
def Instr.onCpuPort : Instr → Bool
  | .cpuRdPrgSwitch _ => true
  | .cpuRdPrgFixed _ => true
  | .cpuRdUnmapped _ => true
  | .cpuWrBanksel _ _ => true
  | .cpuWrUnmapped _ _ => true
  | .ppuRdPattern _ => false
  | .ppuWrPattern _ _ => false
  | .ppuRdNt _ => false
  | .ppuWrNt _ _ => false
  | .ppuRdUnmapped3F _ => false
  | .ppuWrUnmapped3F _ _ => false
  | .ppuRdNtMirror _ => false
  | .ppuWrNtMirror _ _ => false
  | .ppuRdUnmapped _ => false
  | .ppuWrUnmapped _ _ => false

/-- The operation is a write (`W = 1`, R81). -/
def Instr.isWrite : Instr → Bool
  | .cpuRdPrgSwitch _ => false
  | .cpuRdPrgFixed _ => false
  | .cpuRdUnmapped _ => false
  | .cpuWrBanksel _ _ => true
  | .cpuWrUnmapped _ _ => true
  | .ppuRdPattern _ => false
  | .ppuWrPattern _ _ => true
  | .ppuRdNt _ => false
  | .ppuWrNt _ _ => true
  | .ppuRdUnmapped3F _ => false
  | .ppuWrUnmapped3F _ _ => true
  | .ppuRdNtMirror _ => false
  | .ppuWrNtMirror _ _ => true
  | .ppuRdUnmapped _ => false
  | .ppuWrUnmapped _ _ => true

/-- The bus address of the operation (R82). -/
def Instr.addr : Instr → Addr
  | .cpuRdPrgSwitch a => a
  | .cpuRdPrgFixed a => a
  | .cpuRdUnmapped a => a
  | .cpuWrBanksel a _ => a
  | .cpuWrUnmapped a _ => a
  | .ppuRdPattern a => a
  | .ppuWrPattern a _ => a
  | .ppuRdNt a => a
  | .ppuWrNt a _ => a
  | .ppuRdUnmapped3F a => a
  | .ppuWrUnmapped3F a _ => a
  | .ppuRdNtMirror a => a
  | .ppuWrNtMirror a _ => a
  | .ppuRdUnmapped a => a
  | .ppuWrUnmapped a _ => a

/-- The byte a write carries (R82); a read carries none and the model writes `0` there. -/
def Instr.val : Instr → Byte
  | .cpuRdPrgSwitch _ => 0
  | .cpuRdPrgFixed _ => 0
  | .cpuRdUnmapped _ => 0
  | .cpuWrBanksel _ v => v
  | .cpuWrUnmapped _ v => v
  | .ppuRdPattern _ => 0
  | .ppuWrPattern _ v => v
  | .ppuRdNt _ => 0
  | .ppuWrNt _ v => v
  | .ppuRdUnmapped3F _ => 0
  | .ppuWrUnmapped3F _ v => v
  | .ppuRdNtMirror _ => 0
  | .ppuWrNtMirror _ v => v
  | .ppuRdUnmapped _ => 0
  | .ppuWrUnmapped _ v => v

end Sys2Proof
end

