-- ==== Sys2Proof/Decode.lean ====
section
/-! DEFINITION. The transaction word: its fields (30_encoding.md R81, R82), the first-match decoder (R83, R84),
the table itself, and the encoder. Every word decodes (R86), so the decoder rejects nothing. -/

namespace Sys2Proof

/-- The address field `A`, bits 23:8 (R81). -/
def TxnWord.addr (w : TxnWord) : Addr := w.extractLsb' 8 16

/-- The data field `D`, bits 7:0 (R81). -/
def TxnWord.data (w : TxnWord) : Byte := w.extractLsb' 0 8

/-- `(word & mask) == match`, the test of a row (R83). -/
def TxnWord.hits (w mask row : TxnWord) : Bool := w &&& mask == row

/-- First match over the rows of R84, in their order (R83). Row 15 takes what no row before it took: a PPU write. -/
def decode (w : TxnWord) : Instr :=
  if w.hits 0x3C00000 0x0800000 then .cpuRdPrgSwitch w.addr
  else if w.hits 0x3C00000 0x0C00000 then .cpuRdPrgFixed w.addr
  else if w.hits 0x3800000 0x0000000 then .cpuRdUnmapped w.addr
  else if w.hits 0x3800000 0x1800000 then .cpuWrBanksel w.addr w.data
  else if w.hits 0x3800000 0x1000000 then .cpuWrUnmapped w.addr w.data
  else if w.hits 0x3E00000 0x2000000 then .ppuRdPattern w.addr
  else if w.hits 0x3E00000 0x3000000 then .ppuWrPattern w.addr w.data
  else if w.hits 0x3F00000 0x2200000 then .ppuRdNt w.addr
  else if w.hits 0x3F00000 0x3200000 then .ppuWrNt w.addr w.data
  else if w.hits 0x3FF0000 0x23F0000 then .ppuRdUnmapped3F w.addr
  else if w.hits 0x3FF0000 0x33F0000 then .ppuWrUnmapped3F w.addr w.data
  else if w.hits 0x3F00000 0x2300000 then .ppuRdNtMirror w.addr
  else if w.hits 0x3F00000 0x3300000 then .ppuWrNtMirror w.addr w.data
  else if w.hits 0x3000000 0x2000000 then .ppuRdUnmapped w.addr
  else .ppuWrUnmapped w.addr w.data

/-- One row of the decode table: its mask, its match, and the operation it names for an address and a value. -/
structure OpcodeRow where
  mask : TxnWord
  row : TxnWord
  build : Addr → Byte → Instr

/-- The 15 rows of R84, in priority order, with the masks and matches of spec/opcode_table.json. -/
def opcodeTable : List OpcodeRow :=
  [⟨0x3C00000, 0x0800000, fun a _ => .cpuRdPrgSwitch a⟩,
   ⟨0x3C00000, 0x0C00000, fun a _ => .cpuRdPrgFixed a⟩,
   ⟨0x3800000, 0x0000000, fun a _ => .cpuRdUnmapped a⟩,
   ⟨0x3800000, 0x1800000, .cpuWrBanksel⟩,
   ⟨0x3800000, 0x1000000, .cpuWrUnmapped⟩,
   ⟨0x3E00000, 0x2000000, fun a _ => .ppuRdPattern a⟩,
   ⟨0x3E00000, 0x3000000, .ppuWrPattern⟩,
   ⟨0x3F00000, 0x2200000, fun a _ => .ppuRdNt a⟩,
   ⟨0x3F00000, 0x3200000, .ppuWrNt⟩,
   ⟨0x3FF0000, 0x23F0000, fun a _ => .ppuRdUnmapped3F a⟩,
   ⟨0x3FF0000, 0x33F0000, .ppuWrUnmapped3F⟩,
   ⟨0x3F00000, 0x2300000, fun a _ => .ppuRdNtMirror a⟩,
   ⟨0x3F00000, 0x3300000, .ppuWrNtMirror⟩,
   ⟨0x3000000, 0x2000000, fun a _ => .ppuRdUnmapped a⟩,
   ⟨0x3000000, 0x3000000, .ppuWrUnmapped⟩]

/-- The operation of the first row that the word hits; `none` where no row does (R83). -/
def firstMatch : List OpcodeRow → TxnWord → Option Instr
  | [], _ => none
  | r :: rest, w => if w.hits r.mask r.row then some (r.build w.addr w.data) else firstMatch rest w

/-- `{P, W, A[15:0], D[7:0]} = P * 2^25 + W * 2^24 + A * 2^8 + D` (R81). -/
def packWord (p w : Bool) (a : Addr) (d : Byte) : TxnWord :=
  BitVec.ofNat 26 (p.toNat * 2 ^ 25 + w.toNat * 2 ^ 24 + a.toNat * 2 ^ 8 + d.toNat)

/-- The word of an operation (R81, columns P and W of R84); the ignored `D` of a read is 0. -/
def encode : Instr → TxnWord
  | .cpuRdPrgSwitch a => packWord false false a 0
  | .cpuRdPrgFixed a => packWord false false a 0
  | .cpuRdUnmapped a => packWord false false a 0
  | .cpuWrBanksel a v => packWord false true a v
  | .cpuWrUnmapped a v => packWord false true a v
  | .ppuRdPattern a => packWord true false a 0
  | .ppuWrPattern a v => packWord true true a v
  | .ppuRdNt a => packWord true false a 0
  | .ppuWrNt a v => packWord true true a v
  | .ppuRdUnmapped3F a => packWord true false a 0
  | .ppuWrUnmapped3F a v => packWord true true a v
  | .ppuRdNtMirror a => packWord true false a 0
  | .ppuWrNtMirror a v => packWord true true a v
  | .ppuRdUnmapped a => packWord true false a 0
  | .ppuWrUnmapped a v => packWord true true a v

/-- The 26 bits of a number given with its width: every bit from `nbits` up is 0. -/
def wordOfNat (nbits w : Nat) : TxnWord := BitVec.ofNat 26 (w % 2 ^ nbits)

/-- What the decoder reads from a word numbered as spec/opcode_table.json numbers it. A transaction word is one
26-bit value on a port, stored in no memory (R80, R87), so there are no bytes to lay out. A number that needs
more than 26 bits is no transaction word. -/
def decodeTableWord (nbits w : Nat) : Option Instr :=
  if w % 2 ^ nbits < 2 ^ 26 then some (decode (wordOfNat nbits w)) else none

end Sys2Proof
end

