-- ==== Sys2Proof/Config.lean ====
section
/-! DEFINITION. What is fixed from outside: the constants of the block (00_scope.md R7), the parameters of `init`
(R8), what the outside agents may ask (60_exceptions.md R186, R188), and the free values. -/

namespace Sys2Proof

/-- The two mirroring modes (10_state.md R26). -/
inductive MirrorMode where
  /-- Encoded 0. -/
  | horizontal
  /-- Encoded 1. -/
  | vertical
  deriving DecidableEq, Repr

/-- The 1-bit encoding of `mirror_mode` (R26). -/
def MirrorMode.bit : MirrorMode → BitVec 1
  | .horizontal => 0
  | .vertical => 1

/-- A reading of the header byte, the OPEN parameter `MIRROR_DECODE` (70_reset_and_hazards.md R203, D8), as data.
PRESUMED (iNES byte 6, G9) for `ines`; a `table` gives any other reading. See log entry 8. -/
inductive MirrorDecode where
  /-- The default reading of R203. -/
  | ines
  /-- Any reading: a header byte listed has the mode beside it, one not listed is Invalid. -/
  | table (rows : List (Byte × MirrorMode))
  deriving DecidableEq, Repr

/-- PRG bank size, 16 KiB (R7). -/
def Config.bankSize : Nat := 0x4000

/-- Pattern-table window and CHR-RAM size, 8 KiB (R7). -/
def Config.chrRamSize : Nat := 0x2000

/-- Video RAM size, 2 KiB (R7). -/
def Config.vramSize : Nat := 0x800

/-- The VRAM handle that the host sends with `init` (60_exceptions.md R188). DESIGN CHOICE of form: log entry 19. -/
inductive VramHandle where
  /-- The VRAM that the state already holds. -/
  | held
  /-- Another VRAM of 2048 bytes: its contents `VRAM_INIT` (R8) by offset, a byte not listed being the free value
  `Config.vramInit`. -/
  | other (bytes : List Host.Cell)
  deriving DecidableEq, Repr

/-- The parameters of one `init` (R8, 60_exceptions.md R188). `image` lists bytes of the image by index; an index not
listed holds 0x00, so every byte sequence has such a list (log entry 5). `vram` gives `VRAM_INIT`. -/
structure Params where
  image : List Host.Cell
  imageLen : Nat
  prgStart : Nat
  prgLen : Nat
  chrStart : Nat
  chrLen : Nat
  headerByte : Byte
  mirrorDecode : MirrorDecode
  allocOk : Bool
  vram : VramHandle
  deriving DecidableEq, Repr

/-- One event of the single total order (20_memory.md R61, R62), sent by an outside agent (60_exceptions.md R186). -/
inductive Request where
  /-- A CPU-port or PPU-port transaction, as its 26-bit word (R81). -/
  | transaction (word : TxnWord)
  /-- The host's `init` (70_reset_and_hazards.md R200). -/
  | init (p : Params)
  /-- The host's `unload` (R205). -/
  | unload
  /-- A byte of VRAM written by another agent (20_memory.md R64, U13). -/
  | outsideVramWrite (offset : BitVec 11) (val : Byte)
  /-- A reset of the console, CPU or PPU (R206). -/
  | consoleReset
  deriving DecidableEq, Repr, Inhabited

/-- FREE VALUE: `VRAM_INIT`, what VRAM holds where nothing has written it (10_state.md R34, U8). Log entry 4. -/
opaque Config.vramInit : Nat → Byte

/-- FREE VALUE: the host's schedule, its `n`-th request (U11, D29). Log entry 1. -/
opaque Config.hostSchedule : Nat → Request

/-- The parameters the reset state is initialised with. DESIGN CHOICE: the least geometry that `init` accepts,
everything else 0 (log entry 3). -/
def Config.resetParams : Params :=
  { image := [], imageLen := 0x4000, prgStart := 0, prgLen := 0x4000, chrStart := 0, chrLen := 0,
    headerByte := 0x00, mirrorDecode := .ines, allocOk := true, vram := .held }

end Sys2Proof
end

