-- ==== Sys2Proof/Machine/State.lean ====
section
/-! DEFINITION. The machine's state as plain data (10_state.md R20–R34), the reasons a step stops, and the state
after reset. -/

namespace Sys2Proof.Machine

/-- Bytes by index, in canonical form: indices strictly rising, no entry that equals what an unlisted index reads
as (see `Memory.wf` in Machine/Ops.lean). -/
abbrev Memory := List Host.Cell

/-- Whether an instance exists and whether it has faulted (R22). -/
inductive Life where
  /-- No instance exists. -/
  | absent
  /-- An instance exists and answers transactions. -/
  | running
  /-- An instance exists, a fault is latched, nothing is answered. -/
  | halted
  deriving DecidableEq, Repr

/-- The configuration record `cfg` (R21): the image and its geometry, constant for the life of an instance. -/
structure Cartridge where
  /-- `IMAGE`; an unlisted index below `imageLen` holds 0x00. -/
  image : Memory
  imageLen : Nat
  prgStart : Nat
  prgLen : Nat
  chrStart : Nat
  chrLen : Nat
  deriving DecidableEq, Repr

/-- The fault codes (60_exceptions.md R171); their numbers are `FaultCode.toByte` in Machine/Flags.lean. -/
inductive FaultCode where
  /-- 0x01, raised by `init`. -/
  | geometry
  /-- 0x02, raised by `init`. -/
  | mirrorConfig
  /-- 0x03, raised by `init`. -/
  | resource
  /-- 0x10, raised by `CPU_RD_PRG_SWITCH`. -/
  | bankRange
  deriving DecidableEq, Repr

/-- The record `{code, addr, data}` of the fault latch (R30) and of an `init` error (R171). -/
structure FaultRecord where
  code : FaultCode
  addr : Addr
  data : Byte
  deriving DecidableEq, Repr

/-- A diagnostic event (60_exceptions.md R181); its kind code is `DiagEvent.kind` in Machine/Flags.lean. -/
inductive DiagEvent where
  /-- Kind 0x01. -/
  | cpuReadUnmapped (addr : Addr)
  /-- Kind 0x02. -/
  | cpuWriteUnmapped (addr : Addr) (val : Byte)
  /-- Kind 0x03. -/
  | ppuReadUnmapped (addr : Addr)
  /-- Kind 0x04. -/
  | ppuWriteUnmapped (addr : Addr) (val : Byte)
  /-- Kind 0x05. -/
  | chrRomWrite (addr : Addr) (val : Byte)
  deriving DecidableEq, Repr

/-- The two bus ports (R20). -/
inductive Port where
  | cpu
  | ppu
  deriving DecidableEq, Repr

/-- What the block answered to the request it served last (00_scope.md R13, 60_exceptions.md R172, R188).
Output only: no rule reads it (log entry 2). -/
inductive Response where
  /-- `return v`: the byte on that port's read-data output (R13, R20, R82). -/
  | readData (port : Port) (v : Byte)
  /-- `done`: completed with no result (R13). -/
  | done
  /-- Completed as faulted, no byte returned (R175). -/
  | faulted (r : FaultRecord)
  /-- `init` returned success (R200). -/
  | initOk
  /-- `init` returned an error (R172). -/
  | initFailed (r : FaultRecord)
  /-- `unload` completed (R188). -/
  | unloaded
  deriving DecidableEq, Repr

/-- The whole state. While `life` is `absent` the instance's fields hold blanks that nothing reads (log entry 6). -/
structure State where
  /-- R22. -/
  life : Life
  /-- The one writable register (R23). -/
  bankSelect : Byte
  /-- R26. -/
  mirrorMode : MirrorMode
  /-- 8 KiB of CHR-RAM (R27); an unlisted index holds 0x00, its reset value. -/
  chrRam : Memory
  /-- The fault latch (R30). -/
  fault : Option FaultRecord
  /-- The diagnostic trace, oldest first (R29). -/
  diag : List DiagEvent
  /-- R21. -/
  cfg : Cartridge
  /-- The console's 2 KiB video RAM (R28): the bytes written so far; an unlisted offset holds `Config.vramInit`. -/
  vram : Memory
  /-- The block's outputs (R20); the model's own field for them, log entry 2. -/
  response : Response
  /-- Requests already placed by the outside agents, next one first; the model's own field, log entry 1. -/
  requests : List Request
  /-- How many requests were taken from `Config.hostSchedule`; the model's own field, log entry 1. -/
  scheduled : Nat
  deriving DecidableEq, Repr

/-- Why the machine is stuck. -/
inductive Fault where
  /-- A transaction while `life` is `halted` (60_exceptions.md R176, U4): raised by all 15 meanings; safe. -/
  | haltedInstance
  /-- A transaction while `life` is `absent` (R176, U5): raised by all 15 meanings; safe. -/
  | noInstance
  /-- `init` while an instance exists (R200, U6): raised by `execInit`; safe. -/
  | initWhilePresent
  /-- `unload` while no instance exists (R205, U7): raised by `execUnload`; safe. -/
  | unloadWhileAbsent
  /-- An image index at or past `IMAGE_LEN` (00_scope.md R12): raised by the PRG and CHR-ROM reads, in states no
  run reaches (log entry 12); safe. -/
  | outsideImage
  deriving DecidableEq, Repr

/-- Why a step has no meaning. -/
inductive Refusal where
  /-- An operation with no meaning yet: raised by arms of `exec` alone; safe. No arm raises it now. -/
  | notModelled (mnemonic : String)
  deriving DecidableEq, Repr

/-- The outcome of a step. -/
abbrev Out := Host.Outcome State Fault Refusal

/-- The state after a successful `init` (10_state.md R34, 70_reset_and_hazards.md R202) with the parameters
`Config.resetParams` (DESIGN CHOICE, log entry 3), VRAM untouched by anything (`Config.vramInit` throughout). -/
def State.reset : State :=
  { life := .running
    bankSelect := 0x00
    mirrorMode := .horizontal
    chrRam := []
    fault := none
    diag := []
    cfg := { image := [], imageLen := 0x4000, prgStart := 0, prgLen := 0x4000, chrStart := 0, chrLen := 0 }
    vram := []
    response := .initOk
    requests := []
    scheduled := 0 }

end Sys2Proof.Machine
end

