-- ==== Sys2Proof/Machine/Operands.lean ====
section
/-! DEFINITION. Every address form of the block: the PRG resolver's offsets, the CHR index, the mirroring
multiplexer, and the reading of the mirroring header byte. Offsets are naturals and never wrap (00_scope.md R10,
40_cpu_port.md R106). -/

namespace Sys2Proof.Machine

/-- `rel = (addr - 0x8000) + bank_select * 0x4000` (R100). DESIGN CHOICE: below $8000, where no word leads, the
subtraction is cut off at 0 (log entry 11). -/
def prgSwitchOffset (addr : Addr) (bank : Byte) : Nat := (addr.toNat - 0x8000) + bank.toNat * Config.bankSize

/-- `(addr - 0xC000) + (PRG_LEN - 0x4000)` (R102). DESIGN CHOICE: below $C000, where no word leads, and for a PRG_LEN
below 0x4000, which no step leads to, the subtractions are cut off at 0 (log entry 11). -/
def prgFixedOffset (addr : Addr) (prgLen : Nat) : Nat := (addr.toNat - 0xC000) + (prgLen - Config.bankSize)

/-- `PRG_BANKS = PRG_LEN / 0x4000` (00_scope.md R9). -/
def Cartridge.prgBanks (c : Cartridge) : Nat := c.prgLen / Config.bankSize

/-- The CHR-RAM index `addr[12:0]` (41_ppu_port.md R130). -/
def chrIndex (addr : Addr) : BitVec 13 := addr.setWidth 13

/-- The mirroring multiplexer `NT(a, mode)` by the source's two formulas (R140). DESIGN CHOICE: outside $2000–$2FFF,
where `NT` is not defined and no word leads, the same formulas give its 11-bit value (log entry 11). -/
def ntOffset (a : Addr) (mode : MirrorMode) : BitVec 11 :=
  match mode with
  | .horizontal => ((a &&& 0x3FF) + (if a < 0x2800 then 0 else 0x400)).setWidth 11
  | .vertical => (a &&& 0x7FF).setWidth 11

/-- `addr - 0x1000`: the nametable mirror mapped down (R143). DESIGN CHOICE: below $1000, where the spec gives the
subtraction no meaning (00_scope.md R10) and no word leads, it wraps modulo 2^16 (log entry 11). -/
def mirrorDown (addr : Addr) : Addr := addr - 0x1000

/-- The mode a table lists for a header byte; `none` is Invalid. -/
def lookupMirror : List (Byte × MirrorMode) → Byte → Option MirrorMode
  | [], _ => none
  | (k, m) :: rest, h => if k = h then some m else lookupMirror rest h

/-- `MIRROR_DECODE(h)`, `none` for Invalid; `ines` is the default reading (70_reset_and_hazards.md R203). -/
def readMirror (d : MirrorDecode) (h : Byte) : Option MirrorMode :=
  match d with
  | .ines => if h.getLsbD 3 then none else if h.getLsbD 0 then some .vertical else some .horizontal
  | .table rows => lookupMirror rows h

end Sys2Proof.Machine
end

