-- ==== Sys2Proof/Machine/Ops.lean ====
section
/-! DEFINITION. The shared operations: byte memories in canonical form, the three MemRead/MemWrite targets
(00_scope.md R12), how a transaction ends (R13), fault entry (60_exceptions.md R175), and the taking of the next
request from the total order (20_memory.md R61). -/

namespace Sys2Proof.Machine

/-- The entry listed for an index, if any. -/
def Memory.lookup : Memory → Nat → Option Byte
  | [], _ => none
  | (a, v) :: rest, k => if k = a then some v else Memory.lookup rest k

/-- The memory with `v` listed at `k`. -/
def Memory.put : Memory → Nat → Byte → Memory
  | [], k, v => [(k, v)]
  | (a, w) :: rest, k, v =>
    if k < a then (k, v) :: (a, w) :: rest
    else if k = a then (k, v) :: rest
    else (a, w) :: Memory.put rest k v

/-- The memory with nothing listed at `k`. -/
def Memory.erase : Memory → Nat → Memory
  | [], _ => []
  | (a, w) :: rest, k => if k = a then Memory.erase rest k else (a, w) :: Memory.erase rest k

/-- A write that keeps the canonical form: `blank` is the byte an unlisted index holds, where that byte is known. -/
def Memory.write (blank : Option Byte) (m : Memory) (k : Nat) (v : Byte) : Memory :=
  if blank = some v then m.erase k else m.put k v

/-- Indices from `lo` up, strictly rising and below `size`, and no entry equal to `blank`. -/
def Memory.wfFrom (lo size : Nat) (blank : Option Byte) : Memory → Bool
  | [] => true
  | (a, v) :: rest =>
    decide (lo ≤ a) && decide (a < size) && decide (blank ≠ some v) && Memory.wfFrom (a + 1) size blank rest

/-- The canonical form of a memory of `size` bytes. -/
def Memory.wf (size : Nat) (blank : Option Byte) (m : Memory) : Bool := Memory.wfFrom 0 size blank m

/-- What an unlisted index of the image or of CHR-RAM holds: 0x00 (10_state.md R34; for the image, the way a byte
sequence is written down, log entry 5). Of VRAM no such byte is known: `none`. -/
def romBlank : Option Byte := some 0x00

/-- The canonical memory of a list of cells: of two cells at one index the first counts, cells past the end do not
(log entry 14). -/
def Memory.ofCells (blank : Option Byte) (size : Nat) : List Host.Cell → Memory
  | [] => []
  | (k, v) :: rest =>
    if k < size then (Memory.ofCells blank size rest).write blank k v else Memory.ofCells blank size rest

/-- What the VRAM behind a handle holds, for a state that holds `vram` now (60_exceptions.md R188). -/
def handedVram (h : VramHandle) (vram : Memory) : Memory :=
  match h with
  | .held => vram
  | .other bytes => Memory.ofCells none Config.vramSize bytes

/-- `MemRead(IMAGE, i, 1)`, for `i < IMAGE_LEN` (R12). -/
def Cartridge.readImage (c : Cartridge) (i : Nat) : Option Byte :=
  if i < c.imageLen then some ((c.image.lookup i).getD 0x00) else none

/-- `MemRead(CHRRAM, i, 1)` (R12). -/
def State.readChr (s : State) (i : BitVec 13) : Byte := (s.chrRam.lookup i.toNat).getD 0x00

/-- `MemWrite(CHRRAM, i, 1, v)` (R12). -/
def State.writeChr (s : State) (i : BitVec 13) (v : Byte) : State :=
  { s with chrRam := s.chrRam.write romBlank i.toNat v }

/-- `MemRead(VRAM, o, 1)` (R12); where nothing has written, the free value `VRAM_INIT` (10_state.md R34, U8). -/
def State.readVram (s : State) (o : BitVec 11) : Byte := (s.vram.lookup o.toNat).getD (Config.vramInit o.toNat)

/-- `MemWrite(VRAM, o, 1, v)` (R12). -/
def State.writeVram (s : State) (o : BitVec 11) (v : Byte) : State :=
  { s with vram := s.vram.write none o.toNat v }

/-- `return v` on a port (R13). -/
def State.answer (s : State) (p : Port) (v : Byte) : State := { s with response := .readData p v }

/-- `done` (R13). -/
def State.complete (s : State) : State := { s with response := .done }

/-- `Diag(e)` (R13): appends to the trace, changes nothing else. -/
def State.report (s : State) (e : DiagEvent) : State := { s with diag := s.diag ++ [e] }

/-- `bank_select <- v` (40_cpu_port.md R104). -/
def State.setBankSelect (s : State) (v : Byte) : State := { s with bankSelect := v }

/-- TAKING A FAULT, `raise Fault(code, info)` (60_exceptions.md R175): the latch is set, `life` becomes Halted, no
byte is returned, and nothing else changes. There is no vector, no saved pc and no return from it (R177). -/
def State.raise (s : State) (r : FaultRecord) : State :=
  { s with fault := some r, life := .halted, response := .faulted r }

/-- The precondition `life == Running` of every transaction (R176): otherwise the bus master is stuck. -/
def State.whenRunning (s : State) (k : Out) : Out :=
  match s.life with
  | .running => k
  | .halted => .fault .haltedInstance
  | .absent => .fault .noInstance

/-- Completes a read with a byte of the image. -/
def State.returnImage (s : State) (p : Port) (i : Nat) : Out :=
  match s.cfg.readImage i with
  | some v => .next (s.answer p v)
  | none => .fault .outsideImage

/-- An unmapped read: reported, then the sentinel 0x00 (R180). -/
def State.unmappedRead (s : State) (p : Port) (e : DiagEvent) : Out := .next ((s.report e).answer p 0x00)

/-- A write that is discarded and reported (R180). -/
def State.discardedWrite (s : State) (e : DiagEvent) : Out := .next (s.report e).complete

/-- The configuration record of no instance. -/
def Cartridge.blank : Cartridge :=
  { image := [], imageLen := 0, prgStart := 0, prgLen := 0, chrStart := 0, chrLen := 0 }

/-- The block returned to Absent: every element of the instance discarded, VRAM kept (70_reset_and_hazards.md R205). -/
def State.discard (s : State) : State :=
  { s with life := .absent, bankSelect := 0x00, mirrorMode := .horizontal, chrRam := [], fault := none,
           diag := [], cfg := Cartridge.blank }

/-- The next request of the total order, and the state with it taken: one already placed, else the next of the
host's free schedule (20_memory.md R62, U11; log entry 1). -/
def State.takeRequest (s : State) : Request × State :=
  match s.requests with
  | r :: rest => (r, { s with requests := rest })
  | [] => (Config.hostSchedule s.scheduled, { s with scheduled := s.scheduled + 1 })

end Sys2Proof.Machine
end

