-- ==== Sys2Proof/Machine/CpuPort.lean ====
section
/-! DEFINITION. The CPU-port operations: the PRG resolver and the bank-select write (40_cpu_port.md). -/

namespace Sys2Proof.Machine

/-- `CPU_RD_PRG_SWITCH` (R100), with the bound check of R101 before any read. -/
def execCpuRdPrgSwitch (addr : Addr) (s : State) : Out :=
  s.whenRunning <|
    if s.cfg.prgLen ≤ prgSwitchOffset addr s.bankSelect then
      .next (s.raise { code := .bankRange, addr := addr, data := s.bankSelect })
    else
      s.returnImage .cpu (s.cfg.prgStart + prgSwitchOffset addr s.bankSelect)

/-- `CPU_RD_PRG_FIXED` (R102). -/
def execCpuRdPrgFixed (addr : Addr) (s : State) : Out :=
  s.whenRunning (s.returnImage .cpu (s.cfg.prgStart + prgFixedOffset addr s.cfg.prgLen))

/-- `CPU_RD_UNMAPPED` (R103). -/
def execCpuRdUnmapped (addr : Addr) (s : State) : Out :=
  s.whenRunning (s.unmappedRead .cpu (.cpuReadUnmapped addr))

/-- `CPU_WR_BANKSEL` (R104): the address is ignored, the value is stored unmasked. -/
def execCpuWrBanksel (_addr : Addr) (val : Byte) (s : State) : Out :=
  s.whenRunning (.next (s.setBankSelect val).complete)

/-- `CPU_WR_UNMAPPED` (R105). -/
def execCpuWrUnmapped (addr : Addr) (val : Byte) (s : State) : Out :=
  s.whenRunning (s.discardedWrite (.cpuWriteUnmapped addr val))

end Sys2Proof.Machine
end

