-- ==== Sys2Proof/Machine/PpuNametable.lean ====
section
/-! DEFINITION. The PPU-port nametable operations, through the mirroring multiplexer (41_ppu_port.md, section 2). -/

namespace Sys2Proof.Machine

/-- A nametable read at a logical address (R141, R143). -/
def State.readNametable (s : State) (a : Addr) : Out :=
  .next (s.answer .ppu (s.readVram (ntOffset a s.mirrorMode)))

/-- A nametable write at a logical address (R142, R144). -/
def State.writeNametable (s : State) (a : Addr) (val : Byte) : Out :=
  .next (s.writeVram (ntOffset a s.mirrorMode) val).complete

/-- `PPU_RD_NT` (R141). -/
def execPpuRdNt (addr : Addr) (s : State) : Out := s.whenRunning (s.readNametable addr)

/-- `PPU_WR_NT` (R142). -/
def execPpuWrNt (addr : Addr) (val : Byte) (s : State) : Out := s.whenRunning (s.writeNametable addr val)

/-- `PPU_RD_NT_MIRROR` (R143): the subtraction comes before the multiplexer. -/
def execPpuRdNtMirror (addr : Addr) (s : State) : Out := s.whenRunning (s.readNametable (mirrorDown addr))

/-- `PPU_WR_NT_MIRROR` (R144). -/
def execPpuWrNtMirror (addr : Addr) (val : Byte) (s : State) : Out :=
  s.whenRunning (s.writeNametable (mirrorDown addr) val)

end Sys2Proof.Machine
end

