-- ==== Sys2Proof/Machine/PpuPattern.lean ====
section
/-! DEFINITION. The PPU-port pattern-table operations: the CHR-ROM/RAM resolver (41_ppu_port.md, section 1). -/

namespace Sys2Proof.Machine

/-- `PPU_RD_PATTERN` (R130). -/
def execPpuRdPattern (addr : Addr) (s : State) : Out :=
  s.whenRunning <|
    if 0 < s.cfg.chrLen then s.returnImage .ppu (s.cfg.chrStart + addr.toNat)
    else .next (s.answer .ppu (s.readChr (chrIndex addr)))

/-- `PPU_WR_PATTERN` (R131). -/
def execPpuWrPattern (addr : Addr) (val : Byte) (s : State) : Out :=
  s.whenRunning <|
    if 0 < s.cfg.chrLen then s.discardedWrite (.chrRomWrite addr val)
    else .next (s.writeChr (chrIndex addr) val).complete

end Sys2Proof.Machine
end

