-- ==== Sys2Proof/Machine/PpuUnmapped.lean ====
section
/-! DEFINITION. The PPU-port operations outside $0000–$3EFF (41_ppu_port.md, section 3). -/

namespace Sys2Proof.Machine

/-- `PPU_RD_UNMAPPED_3F` (R145). -/
def execPpuRdUnmapped3F (addr : Addr) (s : State) : Out :=
  s.whenRunning (s.unmappedRead .ppu (.ppuReadUnmapped addr))

/-- `PPU_WR_UNMAPPED_3F` (R146). -/
def execPpuWrUnmapped3F (addr : Addr) (val : Byte) (s : State) : Out :=
  s.whenRunning (s.discardedWrite (.ppuWriteUnmapped addr val))

/-- `PPU_RD_UNMAPPED` (R147): the address is not folded to 14 bits. -/
def execPpuRdUnmapped (addr : Addr) (s : State) : Out :=
  s.whenRunning (s.unmappedRead .ppu (.ppuReadUnmapped addr))

/-- `PPU_WR_UNMAPPED` (R148). -/
def execPpuWrUnmapped (addr : Addr) (val : Byte) (s : State) : Out :=
  s.whenRunning (s.discardedWrite (.ppuWriteUnmapped addr val))

end Sys2Proof.Machine
end

