-- ==== Sys2Proof/Machine/Dispatch.lean ====
section
/-! DEFINITION. One arm per operation of the decode table (30_encoding.md R84), each a call of its meaning. -/

namespace Sys2Proof.Machine

def exec (i : Instr) (s : State) : Host.Outcome State Fault Refusal :=
  match i with
  | .cpuRdPrgSwitch addr => Sys2Proof.Machine.execCpuRdPrgSwitch addr s
  | .cpuRdPrgFixed addr => Sys2Proof.Machine.execCpuRdPrgFixed addr s
  | .cpuRdUnmapped addr => Sys2Proof.Machine.execCpuRdUnmapped addr s
  | .cpuWrBanksel addr val => Sys2Proof.Machine.execCpuWrBanksel addr val s
  | .cpuWrUnmapped addr val => Sys2Proof.Machine.execCpuWrUnmapped addr val s
  | .ppuRdPattern addr => Sys2Proof.Machine.execPpuRdPattern addr s
  | .ppuWrPattern addr val => Sys2Proof.Machine.execPpuWrPattern addr val s
  | .ppuRdNt addr => Sys2Proof.Machine.execPpuRdNt addr s
  | .ppuWrNt addr val => Sys2Proof.Machine.execPpuWrNt addr val s
  | .ppuRdUnmapped3F addr => Sys2Proof.Machine.execPpuRdUnmapped3F addr s
  | .ppuWrUnmapped3F addr val => Sys2Proof.Machine.execPpuWrUnmapped3F addr val s
  | .ppuRdNtMirror addr => Sys2Proof.Machine.execPpuRdNtMirror addr s
  | .ppuWrNtMirror addr val => Sys2Proof.Machine.execPpuWrNtMirror addr val s
  | .ppuRdUnmapped addr => Sys2Proof.Machine.execPpuRdUnmapped addr s
  | .ppuWrUnmapped addr val => Sys2Proof.Machine.execPpuWrUnmapped addr val s

end Sys2Proof.Machine
end

