-- ==== Sys2Proof/Machine/Lifecycle.lean ====
section
/-! DEFINITION. The requests that have no transaction word (30_encoding.md R88): `init` and `unload`
(70_reset_and_hazards.md R200–R205), the console reset (R206), and VRAM writes by other agents (20_memory.md R64). -/

namespace Sys2Proof.Machine

/-- Check 1 of `init`, the geometry (R201). -/
def geometryOk (imageLen prgStart prgLen chrStart chrLen : Nat) : Bool :=
  decide (0 < prgLen) && decide (prgLen % Config.bankSize = 0)
    && (decide (chrLen = 0) || decide (chrLen % Config.chrRamSize = 0))
    && decide (prgStart + prgLen ≤ imageLen)
    && (decide (chrLen = 0) || decide (chrStart + chrLen ≤ imageLen))

/-- The geometry of the parameters passes check 1 (R201). -/
def geometryOkOf (p : Params) : Bool := geometryOk p.imageLen p.prgStart p.prgLen p.chrStart p.chrLen

/-- The configuration record that `init` takes (R202). -/
def cartridgeOf (p : Params) : Cartridge :=
  { image := Memory.ofCells romBlank p.imageLen p.image, imageLen := p.imageLen, prgStart := p.prgStart,
    prgLen := p.prgLen, chrStart := p.chrStart, chrLen := p.chrLen }

/-- What a successful `init` sets, in one step (R202). VRAM is not written: the VRAM behind the handle is taken as it
is (60_exceptions.md R188). -/
def State.initialise (s : State) (p : Params) (mode : MirrorMode) : State :=
  { s with life := .running, bankSelect := 0x00, mirrorMode := mode, chrRam := [], fault := none, diag := [],
           cfg := cartridgeOf p, vram := handedVram p.vram s.vram, response := .initOk }

/-- A failed `init`: the error is returned, not latched, and no instance exists (60_exceptions.md R172), so its VRAM
handle is not taken (log entry 19). -/
def State.rejectInit (s : State) (r : FaultRecord) : State := { s.discard with response := .initFailed r }

/-- The checks of R201, in their order; the first that fails gives the code and record of R171. -/
def State.runInit (s : State) (p : Params) : State :=
  if geometryOkOf p then
    match readMirror p.mirrorDecode p.headerByte with
    | some mode =>
      if p.allocOk then s.initialise p mode else s.rejectInit { code := .resource, addr := 0, data := 0 }
    | none => s.rejectInit { code := .mirrorConfig, addr := 0, data := p.headerByte }
  else s.rejectInit { code := .geometry, addr := 0, data := 0 }

/-- `init` (R200): it has a step only while no instance exists. -/
def execInit (p : Params) (s : State) : Out :=
  match s.life with
  | .absent => .next (s.runInit p)
  | .running => .fault .initWhilePresent
  | .halted => .fault .initWhilePresent

/-- `unload` (R205): it has a step only while an instance exists. -/
def execUnload (s : State) : Out :=
  match s.life with
  | .absent => .fault .unloadWhileAbsent
  | .running => .next { s.discard with response := .unloaded }
  | .halted => .next { s.discard with response := .unloaded }

/-- A byte of VRAM written by an agent other than the block (20_memory.md R64): no request to the block, so its
outputs stay, and it happens in every `life`. -/
def execOutsideVramWrite (o : BitVec 11) (v : Byte) (s : State) : Out := .next (s.writeVram o v)

/-- A console, CPU or PPU reset is not a reset of the block (R206). -/
def execConsoleReset (s : State) : Out := .next s

end Sys2Proof.Machine
end

