-- ==== Sys2Proof/Machine/Step.lean ====
section
/-! DEFINITION. One step of the machine: the next request of the total order is taken and served whole
(20_memory.md R57, R61; 70_reset_and_hazards.md R211). -/

namespace Sys2Proof.Machine

/-- The step of one request: a transaction word is decoded and executed, a lifecycle or outside request has its
own operation (30_encoding.md R88). -/
def serve (r : Request) (s : State) : Host.Outcome State Fault Refusal :=
  match r with
  | .transaction word => exec (decode word) s
  | .init p => execInit p s
  | .unload => execUnload s
  | .outsideVramWrite o v => execOutsideVramWrite o v s
  | .consoleReset => execConsoleReset s

/-- Takes the next request and serves it. -/
def step (s : State) : Host.Outcome State Fault Refusal := serve s.takeRequest.1 s.takeRequest.2

/-- The state with one transaction word placed as the very next request (log entry 10). -/
def State.withFetchWord (s : State) (nbits w : Nat) : State :=
  { s with requests := .transaction (wordOfNat nbits w) :: s.requests }

end Sys2Proof.Machine
end

