-- ==== Sys2Proof/Machine/Flags.lean ====
section
/-! DEFINITION. The block has no status flags or condition codes (10_state.md R32). Its whole status is `life`, the
fault latch and the diagnostic trace; this file gives their output forms and numbers (60_exceptions.md R171, R181). -/

namespace Sys2Proof.Machine

/-- The 8-bit number of a fault code (R171). -/
def FaultCode.toByte : FaultCode → Byte
  | .geometry => 0x01
  | .mirrorConfig => 0x02
  | .resource => 0x03
  | .bankRange => 0x10

/-- The kind code of a diagnostic event (R181). -/
def DiagEvent.kind : DiagEvent → Byte
  | .cpuReadUnmapped _ => 0x01
  | .cpuWriteUnmapped _ _ => 0x02
  | .ppuReadUnmapped _ => 0x03
  | .ppuWriteUnmapped _ _ => 0x04
  | .chrRomWrite _ _ => 0x05

/-- The fault output: the latch as the host sees it, its code as a number (10_state.md R20, R188). -/
def State.faultOutput (s : State) : Option (Byte × Addr × Byte) :=
  s.fault.map fun r => (r.code.toByte, r.addr, r.data)

/-- The diagnostic output: the trace as the host sees it (R20, R188). -/
def State.diagOutput (s : State) : List DiagEvent := s.diag

end Sys2Proof.Machine
end

