-- ==== Sys2Proof/Safety.lean ====
section
/-! DEFINITION. What claims are stated in terms of: the invariant of 10_state.md R35 with the canonical form of the
memories, and a run that has not stopped (60_exceptions.md R176). -/

namespace Sys2Proof.Machine

/-- The geometry invariants of R35. -/
def Cartridge.valid (c : Cartridge) : Bool := geometryOk c.imageLen c.prgStart c.prgLen c.chrStart c.chrLen

/-- The three memories are in canonical form. -/
abbrev State.MemoriesCanonical (s : State) : Prop :=
  Memory.wf s.cfg.imageLen romBlank s.cfg.image = true ∧ Memory.wf Config.chrRamSize romBlank s.chrRam = true ∧
    Memory.wf Config.vramSize none s.vram = true

/-- R35: while an instance exists its geometry is valid; the latch is set exactly in Halted; and with no instance
nothing of one is left (R34, R205), only the blanks of log entry 6. -/
abbrev State.LifecycleConsistent (s : State) : Prop :=
  (s.life ≠ .absent → s.cfg.valid = true) ∧ (s.fault = none ↔ s.life ≠ .halted) ∧
    (s.life = .absent → s.cfg = Cartridge.blank ∧ s.bankSelect = 0 ∧ s.mirrorMode = .horizontal ∧ s.chrRam = [] ∧
      s.diag = [])

/-- With CHR-ROM present CHR-RAM stays as initialised, all 0x00 (R27, R202). -/
abbrev State.ChrRamUnused (s : State) : Prop := 0 < s.cfg.chrLen → s.chrRam = []

/-- A latched fault is a `BANK_RANGE` of the switchable window that names the bank still selected (R173, R175). -/
abbrev State.FaultExplained (s : State) : Prop :=
  s.life = .halted → ∃ a : Addr, 0x8000 ≤ a.toNat ∧ a.toNat ≤ 0xBFFF ∧
    s.fault = some { code := .bankRange, addr := a, data := s.bankSelect } ∧ s.cfg.prgBanks ≤ s.bankSelect.toNat

/-- The conditions of check 1 of `init`, as R201 writes them. -/
abbrev geometryConditions (p : Params) : Prop :=
  0 < p.prgLen ∧ p.prgLen % 0x4000 = 0 ∧ (p.chrLen = 0 ∨ p.chrLen % 0x2000 = 0) ∧
    p.prgStart + p.prgLen ≤ p.imageLen ∧ (p.chrLen = 0 ∨ p.chrStart + p.chrLen ≤ p.imageLen)

/-- The byte of CHR-RAM an operation stores to, by the index its meaning uses (41_ppu_port.md R131). -/
def chrStore (i : Instr) (s : State) : Option (BitVec 13) :=
  match i with
  | .ppuWrPattern a _ => if 0 < s.cfg.chrLen then none else some (chrIndex a)
  | .cpuRdPrgSwitch _ => none
  | .cpuRdPrgFixed _ => none
  | .cpuRdUnmapped _ => none
  | .cpuWrBanksel _ _ => none
  | .cpuWrUnmapped _ _ => none
  | .ppuRdPattern _ => none
  | .ppuRdNt _ => none
  | .ppuWrNt _ _ => none
  | .ppuRdUnmapped3F _ => none
  | .ppuWrUnmapped3F _ _ => none
  | .ppuRdNtMirror _ => none
  | .ppuWrNtMirror _ _ => none
  | .ppuRdUnmapped _ => none
  | .ppuWrUnmapped _ _ => none

/-- The byte of VRAM an operation stores to, by the offset its meaning uses (41_ppu_port.md R142, R144). -/
def vramStore (i : Instr) (s : State) : Option (BitVec 11) :=
  match i with
  | .ppuWrNt a _ => some (ntOffset a s.mirrorMode)
  | .ppuWrNtMirror a _ => some (ntOffset (mirrorDown a) s.mirrorMode)
  | .cpuRdPrgSwitch _ => none
  | .cpuRdPrgFixed _ => none
  | .cpuRdUnmapped _ => none
  | .cpuWrBanksel _ _ => none
  | .cpuWrUnmapped _ _ => none
  | .ppuRdPattern _ => none
  | .ppuWrPattern _ _ => none
  | .ppuRdNt _ => none
  | .ppuRdUnmapped3F _ => none
  | .ppuWrUnmapped3F _ _ => none
  | .ppuRdNtMirror _ => none
  | .ppuRdUnmapped _ => none
  | .ppuWrUnmapped _ _ => none

/-- The diagnostic event an operation emits, if any (60_exceptions.md R181, column "emitted by"). -/
def eventOf (i : Instr) (s : State) : Option DiagEvent :=
  match i with
  | .cpuRdUnmapped a => some (.cpuReadUnmapped a)
  | .cpuWrUnmapped a v => some (.cpuWriteUnmapped a v)
  | .ppuRdUnmapped3F a => some (.ppuReadUnmapped a)
  | .ppuRdUnmapped a => some (.ppuReadUnmapped a)
  | .ppuWrUnmapped3F a v => some (.ppuWriteUnmapped a v)
  | .ppuWrUnmapped a v => some (.ppuWriteUnmapped a v)
  | .ppuWrPattern a v => if 0 < s.cfg.chrLen then some (.chrRomWrite a v) else none
  | .cpuRdPrgSwitch _ => none
  | .cpuRdPrgFixed _ => none
  | .cpuWrBanksel _ _ => none
  | .ppuRdPattern _ => none
  | .ppuRdNt _ => none
  | .ppuWrNt _ _ => none
  | .ppuRdNtMirror _ => none
  | .ppuWrNtMirror _ _ => none

/-- What an outcome answers on the outputs, if it answers at all. -/
def responseOf : Out → Option Response
  | .next t => some t.response
  | .fault _ => none
  | .refused _ => none

/-- A run is safe as long as the instance answers: Halted is never a successful end (R176). -/
abbrev State.Safe (s : State) : Prop := s.life = .running

end Sys2Proof.Machine
end

