-- ==== Sys2Proof/Certificates/Slice0/Obligations.lean ====
section
/-! DEFINITION. The statements for the provers. Each docstring names the rules of spec/ it formalises. A state is
any state; where a statement needs R35 it says so in a premise. -/

open Sys2Proof Sys2Proof.Machine

/-! ## Encoding (30_encoding.md) -/

/-- R90: the sixteen worked words, both ways. -/
def Obligations.WorkedWordsDecodeAndEncode : Prop :=
  (decode 0x0800000 = .cpuRdPrgSwitch 0x8000 ∧ encode (.cpuRdPrgSwitch 0x8000) = 0x0800000) ∧
  (decode 0x0C00000 = .cpuRdPrgFixed 0xC000 ∧ encode (.cpuRdPrgFixed 0xC000) = 0x0C00000) ∧
  (decode 0x0000000 = .cpuRdUnmapped 0x0000 ∧ encode (.cpuRdUnmapped 0x0000) = 0x0000000) ∧
  (decode 0x1800001 = .cpuWrBanksel 0x8000 0x01 ∧ encode (.cpuWrBanksel 0x8000 0x01) = 0x1800001) ∧
  (decode 0x1FFFF07 = .cpuWrBanksel 0xFFFF 0x07 ∧ encode (.cpuWrBanksel 0xFFFF 0x07) = 0x1FFFF07) ∧
  (decode 0x1600055 = .cpuWrUnmapped 0x6000 0x55 ∧ encode (.cpuWrUnmapped 0x6000 0x55) = 0x1600055) ∧
  (decode 0x2000000 = .ppuRdPattern 0x0000 ∧ encode (.ppuRdPattern 0x0000) = 0x2000000) ∧
  (decode 0x31FFFAB = .ppuWrPattern 0x1FFF 0xAB ∧ encode (.ppuWrPattern 0x1FFF 0xAB) = 0x31FFFAB) ∧
  (decode 0x2240000 = .ppuRdNt 0x2400 ∧ encode (.ppuRdNt 0x2400) = 0x2240000) ∧
  (decode 0x320005A = .ppuWrNt 0x2000 0x5A ∧ encode (.ppuWrNt 0x2000 0x5A) = 0x320005A) ∧
  (decode 0x23F0000 = .ppuRdUnmapped3F 0x3F00 ∧ encode (.ppuRdUnmapped3F 0x3F00) = 0x23F0000) ∧
  (decode 0x33F100F = .ppuWrUnmapped3F 0x3F10 0x0F ∧ encode (.ppuWrUnmapped3F 0x3F10 0x0F) = 0x33F100F) ∧
  (decode 0x2300000 = .ppuRdNtMirror 0x3000 ∧ encode (.ppuRdNtMirror 0x3000) = 0x2300000) ∧
  (decode 0x33EFF11 = .ppuWrNtMirror 0x3EFF 0x11 ∧ encode (.ppuWrNtMirror 0x3EFF 0x11) = 0x33EFF11) ∧
  (decode 0x2400000 = .ppuRdUnmapped 0x4000 ∧ encode (.ppuRdUnmapped 0x4000) = 0x2400000) ∧
  (decode 0x3FFFF00 = .ppuWrUnmapped 0xFFFF 0x00 ∧ encode (.ppuWrUnmapped 0xFFFF 0x00) = 0x3FFFF00)

/-- R81–R84: no bit of an operation is lost. For every well-formed operation, at every address of its range and
every value, decoding its word gives it back. -/
def Obligations.DecodeEncodeRoundTrip : Prop := ∀ i : Instr, i.wf = true → decode (encode i) = i

/-- R84, column "address range received": a word decodes to an operation whose address lies in its row's range, and
that carries the word's own port, direction, address and, for a write, value (R81, R82). -/
def Obligations.DecodedOperationHasItsRowsRange : Prop :=
  ∀ w : TxnWord, (decode w).wf = true ∧ w.toNat / 2 ^ 25 = (!(decode w).onCpuPort).toNat ∧
    w.toNat / 2 ^ 24 % 2 = (decode w).isWrite.toNat ∧ (decode w).addr = w.addr ∧
    ((decode w).isWrite = true → (decode w).val = w.data)

/-- R83: the decoder is the first match over the rows of R84 in their order, and the table is total. -/
def Obligations.DecodeIsFirstMatchOfTable : Prop := ∀ w : TxnWord, firstMatch opcodeTable w = some (decode w)

/-- R82, R86: two read words that differ only in `D` are the same operation; two bank-select writes that differ
only in `A[14:0]` have the same effect. -/
def Obligations.IgnoredBitsDoNotMatter : Prop :=
  (∀ (p : Bool) (a : Addr) (d d' : Byte), decode (packWord p false a d) = decode (packWord p false a d')) ∧
  (∀ (a a' : Addr) (v : Byte) (s : State), 0x8000 ≤ a.toNat → 0x8000 ≤ a'.toNat →
    exec (decode (packWord false true a v)) s = exec (decode (packWord false true a' v)) s)

/-- R86, R184: in Running, with the geometry of R35, every word has a defined outcome: a next state. -/
def Obligations.EveryWordCompletesInRunning : Prop :=
  ∀ (w : TxnWord) (s : State), s.life = .running → s.cfg.valid = true → ∃ t, exec (decode w) s = .next t

/-! ## CPU port (40_cpu_port.md) -/

/-- R100: the switchable window reads the selected bank; a bank past the end of PRG ROM faults and reads nothing. The
spec marks as derived that the fault comes exactly when `bank_select >= PRG_BANKS` (R101) and that the index is inside
the image (R106, R35); the bound PRG_LEN is its decision D4, the latch and Halted its decision D6 (R175). -/
def Obligations.SwitchableWindowReadsSelectedBank : Prop :=
  ∀ (s : State) (a : Addr) (d : Byte), s.life = .running → s.cfg.valid = true →
    0x8000 ≤ a.toNat → a.toNat ≤ 0xBFFF →
    decode (packWord false false a d) = .cpuRdPrgSwitch a ∧
    (s.bankSelect.toNat < s.cfg.prgLen / 0x4000 →
      ∃ v, s.cfg.readImage (s.cfg.prgStart + ((a.toNat - 0x8000) + s.bankSelect.toNat * 0x4000)) = some v ∧
        exec (.cpuRdPrgSwitch a) s = .next { s with response := .readData .cpu v }) ∧
    (s.cfg.prgLen / 0x4000 ≤ s.bankSelect.toNat →
      exec (.cpuRdPrgSwitch a) s =
        .next
          { s with
            fault := some { code := .bankRange, addr := a, data := s.bankSelect }
            life := .halted
            response := .faulted { code := .bankRange, addr := a, data := s.bankSelect } })

/-- R101: the bound check holds exactly when `bank_select >= PRG_BANKS`, whatever the address. -/
def Obligations.BoundCheckIsBankCount : Prop :=
  ∀ (c : Cartridge) (a : Addr) (b : Byte), c.valid = true → 0x8000 ≤ a.toNat → a.toNat ≤ 0xBFFF →
    (c.prgLen ≤ prgSwitchOffset a b ↔ c.prgBanks ≤ b.toNat)

/-- R102: the fixed window reads the last 16 KiB of PRG ROM, for every `bank_select`. -/
def Obligations.FixedWindowReadsLastBank : Prop :=
  ∀ (s : State) (a : Addr) (d : Byte), s.life = .running → s.cfg.valid = true → 0xC000 ≤ a.toNat →
    decode (packWord false false a d) = .cpuRdPrgFixed a ∧
    ∃ v, s.cfg.readImage (s.cfg.prgStart + (a.toNat - 0xC000) + (s.cfg.prgLen - 0x4000)) = some v ∧
      exec (.cpuRdPrgFixed a) s = .next { s with response := .readData .cpu v } ∧
      ∀ b : Byte, exec (.cpuRdPrgFixed a) { s with bankSelect := b } =
        .next { s with bankSelect := b, response := .readData .cpu v }

/-- R103: an unmapped CPU read answers 0x00 and is reported; nothing else changes. -/
def Obligations.CpuUnmappedReadAnswersZero : Prop :=
  ∀ (s : State) (a : Addr) (d : Byte), s.life = .running → a.toNat ≤ 0x7FFF →
    decode (packWord false false a d) = .cpuRdUnmapped a ∧
    exec (.cpuRdUnmapped a) s =
      .next { s with diag := s.diag ++ [.cpuReadUnmapped a], response := .readData .cpu 0x00 }

/-- R104: a CPU write anywhere in $8000–$FFFF stores the written byte in `bank_select`, and does nothing else. -/
def Obligations.BankSelectWriteStoresValue : Prop :=
  ∀ (s : State) (a : Addr) (v : Byte), s.life = .running → 0x8000 ≤ a.toNat →
    decode (packWord false true a v) = .cpuWrBanksel a v ∧
    exec (.cpuWrBanksel a v) s = .next { s with bankSelect := v, response := .done }

/-- R105: an unmapped CPU write is reported and discarded. -/
def Obligations.CpuUnmappedWriteIsDiscarded : Prop :=
  ∀ (s : State) (a : Addr) (v : Byte), s.life = .running → a.toNat ≤ 0x7FFF →
    decode (packWord false true a v) = .cpuWrUnmapped a v ∧
    exec (.cpuWrUnmapped a v) s = .next { s with diag := s.diag ++ [.cpuWriteUnmapped a v], response := .done }

/-- R65, R100, R209 (the source's S2, S3): after a bank-select write at any address of the range, the very next
switchable read is served from the bank written. -/
def Obligations.BankWriteSeenByNextRead : Prop :=
  ∀ (s : State) (a b : Addr) (v : Byte), s.life = .running → s.cfg.valid = true → 0x8000 ≤ a.toNat →
    0x8000 ≤ b.toNat → b.toNat ≤ 0xBFFF → (v.toNat + 1) * 0x4000 ≤ s.cfg.prgLen →
    ∃ t x, exec (.cpuWrBanksel a v) s = .next t ∧
      s.cfg.readImage (s.cfg.prgStart + (b.toNat - 0x8000) + v.toNat * 0x4000) = some x ∧
      exec (.cpuRdPrgSwitch b) t = .next { t with response := .readData .cpu x }

/-- R106, which the spec marks as derived, for the switchable window: no offset of it exceeds 0x3FFFFF, and 0x3FFFFF
is reached. -/
def Obligations.PrgOffsetFitsTwentyTwoBits : Prop :=
  (∀ (a : Addr) (b : Byte), a.toNat ≤ 0xBFFF → prgSwitchOffset a b ≤ 0x3FFFFF) ∧
    prgSwitchOffset 0xBFFF 0xFF = 0x3FFFFF

/-! ## PPU port (41_ppu_port.md) -/

/-- R130: a pattern read is served by CHR-ROM when `CHR_LEN > 0`, else by the CHR-RAM byte of the same index. -/
def Obligations.PatternReadResolves : Prop :=
  ∀ (s : State) (a : Addr) (d : Byte), s.life = .running → s.cfg.valid = true → a.toNat ≤ 0x1FFF →
    decode (packWord true false a d) = .ppuRdPattern a ∧ (chrIndex a).toNat = a.toNat ∧
    (0 < s.cfg.chrLen → ∃ v, s.cfg.readImage (s.cfg.chrStart + a.toNat) = some v ∧
      exec (.ppuRdPattern a) s = .next { s with response := .readData .ppu v }) ∧
    (s.cfg.chrLen = 0 →
      exec (.ppuRdPattern a) s = .next { s with response := .readData .ppu (s.readChr (chrIndex a)) })

/-- R131: a pattern write is ignored and reported over CHR-ROM, and stores its one byte in CHR-RAM. -/
def Obligations.PatternWriteResolves : Prop :=
  ∀ (s : State) (a : Addr) (v : Byte), s.life = .running → a.toNat ≤ 0x1FFF →
    decode (packWord true true a v) = .ppuWrPattern a v ∧
    (0 < s.cfg.chrLen → exec (.ppuWrPattern a v) s =
      .next { s with diag := s.diag ++ [.chrRomWrite a v], response := .done }) ∧
    (s.cfg.chrLen = 0 → ∃ t, exec (.ppuWrPattern a v) s = .next t ∧
      t = { s with chrRam := t.chrRam, response := .done } ∧ t.readChr (chrIndex a) = v ∧
      ∀ k, k ≠ chrIndex a → t.readChr k = s.readChr k)

/-- R130, R131 (the source's S4): with CHR-RAM, a read after a write returns the value written at that address and
what was there before at every other. -/
def Obligations.ChrRamWriteThenRead : Prop :=
  ∀ (s : State) (a b : Addr) (v : Byte), s.life = .running → s.cfg.chrLen = 0 → a.toNat ≤ 0x1FFF →
    b.toNat ≤ 0x1FFF → ∃ t, exec (.ppuWrPattern a v) s = .next t ∧
      exec (.ppuRdPattern b) t =
        .next { t with response := .readData .ppu (if b = a then v else s.readChr (chrIndex b)) }

/-- R60, R131 (the source's S5): CHR-ROM is immutable. With `CHR_LEN > 0` no pattern write changes what any later
pattern read returns. -/
def Obligations.ChrRomIsImmutable : Prop :=
  ∀ (s : State) (a b : Addr) (v : Byte), s.life = .running → s.cfg.valid = true → 0 < s.cfg.chrLen →
    b.toNat ≤ 0x1FFF → ∃ t u x, exec (.ppuWrPattern a v) s = .next t ∧ exec (.ppuRdPattern b) t = .next u ∧
      s.cfg.readImage (s.cfg.chrStart + b.toNat) = some x ∧ u.response = .readData .ppu x

/-- R140: the source's formulas, the bit select, and the range of the multiplexer. -/
def Obligations.MirroringMultiplexerIsBitSelect : Prop :=
  ∀ a : Addr, 0x2000 ≤ a.toNat → a.toNat ≤ 0x2FFF →
    (ntOffset a .horizontal).toNat = (a.toNat &&& 0x3FF) + (if a.toNat < 0x2800 then 0 else 0x400) ∧
    (ntOffset a .vertical).toNat = (a.toNat &&& 0x7FF) ∧
    (ntOffset a .horizontal).toNat = (a.getLsbD 11).toNat * 0x400 + a.toNat % 0x400 ∧
    (ntOffset a .vertical).toNat = (a.getLsbD 10).toNat * 0x400 + a.toNat % 0x400

/-- R140, the table: which logical addresses share a byte of VRAM in each mode. -/
def Obligations.NametablesFoldByMode : Prop :=
  ∀ a b : Addr, 0x2000 ≤ a.toNat → a.toNat ≤ 0x2FFF → 0x2000 ≤ b.toNat → b.toNat ≤ 0x2FFF →
    (ntOffset a .horizontal = ntOffset b .horizontal ↔
      a.toNat % 0x400 = b.toNat % 0x400 ∧ a.toNat / 0x800 = b.toNat / 0x800) ∧
    (ntOffset a .vertical = ntOffset b .vertical ↔ a.toNat % 0x800 = b.toNat % 0x800)

/-- R141: a nametable read answers the VRAM byte the multiplexer selects, whatever VRAM holds there. -/
def Obligations.NametableReadAnswersVram : Prop :=
  ∀ (s : State) (a : Addr) (d : Byte), s.life = .running → 0x2000 ≤ a.toNat → a.toNat ≤ 0x2FFF →
    decode (packWord true false a d) = .ppuRdNt a ∧
    exec (.ppuRdNt a) s = .next { s with response := .readData .ppu (s.readVram (ntOffset a s.mirrorMode)) }

/-- R142: a nametable write stores its byte where the multiplexer selects, and nowhere else. -/
def Obligations.NametableWriteStoresOneByte : Prop :=
  ∀ (s : State) (a : Addr) (v : Byte), s.life = .running → 0x2000 ≤ a.toNat → a.toNat ≤ 0x2FFF →
    decode (packWord true true a v) = .ppuWrNt a v ∧
    ∃ t, exec (.ppuWrNt a v) s = .next t ∧ t = { s with vram := t.vram, response := .done } ∧
      t.readVram (ntOffset a s.mirrorMode) = v ∧
      ∀ o, o ≠ ntOffset a s.mirrorMode → t.readVram o = s.readVram o

/-- R143: a read of the nametable mirror answers the byte of `addr - 0x1000`, and the bit select of R140 applied to
`addr` itself gives the same offset. -/
def Obligations.MirrorReadAnswersNametable : Prop :=
  ∀ (s : State) (a : Addr) (d : Byte), s.life = .running → 0x3000 ≤ a.toNat → a.toNat ≤ 0x3EFF →
    decode (packWord true false a d) = .ppuRdNtMirror a ∧ (mirrorDown a).toNat = a.toNat - 0x1000 ∧
    (ntOffset (mirrorDown a) s.mirrorMode).toNat =
      (if s.mirrorMode = .vertical then a.getLsbD 10 else a.getLsbD 11).toNat * 0x400 + a.toNat % 0x400 ∧
    exec (.ppuRdNtMirror a) s =
      .next { s with response := .readData .ppu (s.readVram (ntOffset (mirrorDown a) s.mirrorMode)) } ∧
    exec (.ppuRdNt (mirrorDown a)) s = exec (.ppuRdNtMirror a) s

/-- R144: a write to the nametable mirror stores its byte at the offset of `addr - 0x1000`, and nowhere else. -/
def Obligations.MirrorWriteStoresOneByte : Prop :=
  ∀ (s : State) (a : Addr) (v : Byte), s.life = .running → 0x3000 ≤ a.toNat → a.toNat ≤ 0x3EFF →
    decode (packWord true true a v) = .ppuWrNtMirror a v ∧ (mirrorDown a).toNat = a.toNat - 0x1000 ∧
    ∃ t, exec (.ppuWrNtMirror a v) s = .next t ∧ t = { s with vram := t.vram, response := .done } ∧
      t.readVram (ntOffset (mirrorDown a) s.mirrorMode) = v ∧
      (∀ o, o ≠ ntOffset (mirrorDown a) s.mirrorMode → t.readVram o = s.readVram o) ∧
      exec (.ppuRdNt (mirrorDown a)) t = .next { t with response := .readData .ppu v }

/-- R141, R142 (the source's S6): after a nametable write, a nametable read returns the value written exactly at the
logical addresses that fold onto the same byte, and elsewhere what was there before. -/
def Obligations.NametableWriteThenRead : Prop :=
  ∀ (s : State) (a b : Addr) (v : Byte), s.life = .running → 0x2000 ≤ a.toNat → a.toNat ≤ 0x2FFF →
    0x2000 ≤ b.toNat → b.toNat ≤ 0x2FFF → ∃ t, exec (.ppuWrNt a v) s = .next t ∧
      (a.toNat % 0x400 = b.toNat % 0x400 ∧
          (s.mirrorMode = .horizontal ∧ a.getLsbD 11 = b.getLsbD 11 ∨
            s.mirrorMode = .vertical ∧ a.getLsbD 10 = b.getLsbD 10) →
        exec (.ppuRdNt b) t = .next { t with response := .readData .ppu v }) ∧
      (¬ (a.toNat % 0x400 = b.toNat % 0x400 ∧
          (s.mirrorMode = .horizontal ∧ a.getLsbD 11 = b.getLsbD 11 ∨
            s.mirrorMode = .vertical ∧ a.getLsbD 10 = b.getLsbD 10)) →
        exec (.ppuRdNt b) t = .next { t with response := .readData .ppu (s.readVram (ntOffset b s.mirrorMode)) })

/-- R145: an unmapped PPU read in $3F00–$3FFF answers 0x00 and is reported. -/
def Obligations.PaletteRangeReadAnswersZero : Prop :=
  ∀ (s : State) (a : Addr) (d : Byte), s.life = .running → 0x3F00 ≤ a.toNat → a.toNat ≤ 0x3FFF →
    decode (packWord true false a d) = .ppuRdUnmapped3F a ∧
    exec (.ppuRdUnmapped3F a) s =
      .next { s with diag := s.diag ++ [.ppuReadUnmapped a], response := .readData .ppu 0x00 }

/-- R146: an unmapped PPU write in $3F00–$3FFF is reported and discarded. -/
def Obligations.PaletteRangeWriteIsDiscarded : Prop :=
  ∀ (s : State) (a : Addr) (v : Byte), s.life = .running → 0x3F00 ≤ a.toNat → a.toNat ≤ 0x3FFF →
    decode (packWord true true a v) = .ppuWrUnmapped3F a v ∧
    exec (.ppuWrUnmapped3F a v) s =
      .next { s with diag := s.diag ++ [.ppuWriteUnmapped a v], response := .done }

/-- R147: an unmapped PPU read in $4000–$FFFF answers 0x00 and is reported; the address is not folded. -/
def Obligations.PpuUnmappedReadAnswersZero : Prop :=
  ∀ (s : State) (a : Addr) (d : Byte), s.life = .running → 0x4000 ≤ a.toNat →
    decode (packWord true false a d) = .ppuRdUnmapped a ∧
    exec (.ppuRdUnmapped a) s =
      .next { s with diag := s.diag ++ [.ppuReadUnmapped a], response := .readData .ppu 0x00 }

/-- R148: an unmapped PPU write in $4000–$FFFF is reported and discarded. -/
def Obligations.PpuUnmappedWriteIsDiscarded : Prop :=
  ∀ (s : State) (a : Addr) (v : Byte), s.life = .running → 0x4000 ≤ a.toNat →
    decode (packWord true true a v) = .ppuWrUnmapped a v ∧
    exec (.ppuWrUnmapped a v) s =
      .next { s with diag := s.diag ++ [.ppuWriteUnmapped a v], response := .done }

/-! ## Frames and whole-machine rules (10_state.md, 20_memory.md, 60_exceptions.md) -/

/-- R21, R23, R26, R30 for all 15 operations: `bank_select` is written only by `CPU_WR_BANKSEL`; the latch and `life`
only by `CPU_RD_PRG_SWITCH`; `mirror_mode`, the image and its geometry by none; the schedule by none. -/
def Obligations.RegisterFrameOfEveryOperation : Prop :=
  ∀ (i : Instr) (s t : State), exec i s = .next t →
    ((∀ a v, i ≠ .cpuWrBanksel a v) → t.bankSelect = s.bankSelect) ∧
    ((∀ a, i ≠ .cpuRdPrgSwitch a) → t.life = s.life ∧ t.fault = s.fault) ∧
    t.mirrorMode = s.mirrorMode ∧ t.cfg = s.cfg ∧ t.requests = s.requests ∧ t.scheduled = s.scheduled

/-- R52, R53, R66 for all 15 operations: every byte of CHR-RAM, VRAM and the image reads as before, except the one
byte the operation stores to, at the index its own form computes. -/
def Obligations.MemoryFrameOfEveryOperation : Prop :=
  ∀ (i : Instr) (s t : State), exec i s = .next t →
    (∀ k, chrStore i s ≠ some k → t.readChr k = s.readChr k) ∧
    (∀ o, vramStore i s ≠ some o → t.readVram o = s.readVram o) ∧
    (∀ n, t.cfg.readImage n = s.cfg.readImage n)

/-- R181: each operation appends exactly the event the table gives it, and no other appends one; the kind codes. -/
def Obligations.DiagnosticTraceGrowsByTable : Prop :=
  (∀ (i : Instr) (s t : State), exec i s = .next t → t.diag = s.diag ++ (eventOf i s).toList) ∧
  ∀ (a : Addr) (v : Byte), (DiagEvent.cpuReadUnmapped a).kind = 0x01 ∧ (DiagEvent.cpuWriteUnmapped a v).kind = 0x02 ∧
    (DiagEvent.ppuReadUnmapped a).kind = 0x03 ∧ (DiagEvent.ppuWriteUnmapped a v).kind = 0x04 ∧
    (DiagEvent.chrRomWrite a v).kind = 0x05

/-- R29: no operation reads the trace. With any other trace it answers the same, and appends the same. -/
def Obligations.NoOperationReadsTheTrace : Prop :=
  ∀ (i : Instr) (s t : State) (d : List DiagEvent), exec i s = .next t →
    exec i { s with diag := d } = .next { t with diag := d ++ (eventOf i s).toList }

/-- R58: a read that does not fault changes only the trace and the read-data output, and reading the same address
again at once answers the same byte. -/
def Obligations.ReadsChangeNothingAndRepeat : Prop :=
  ∀ (i : Instr) (s t : State), i.isWrite = false → exec i s = .next t → t.life = .running →
    t = { s with diag := t.diag, response := t.response } ∧ responseOf (exec i t) = some t.response

/-- R187: a CPU-port operation that does not fault never changes what a PPU-port operation answers, and a PPU-port
operation never changes what a CPU-port operation answers. -/
def Obligations.PortsDoNotInterfere : Prop :=
  ∀ (i j : Instr) (s t : State), i.onCpuPort ≠ j.onCpuPort → exec i s = .next t → t.life = .running →
    responseOf (exec j t) = responseOf (exec j s)

/-- R24: `bank_select` is write-only. Only the switchable-window read depends on its value: any other operation, in
two states that differ in `bank_select` alone, answers the same. -/
def Obligations.OnlySwitchableReadSeesBankSelect : Prop :=
  ∀ (i : Instr) (s : State) (b : Byte), (∀ a, i ≠ .cpuRdPrgSwitch a) →
    responseOf (exec i { s with bankSelect := b }) = responseOf (exec i s)

/-- R173, R101: in Running, with the geometry of R35, no well-formed operation stops, and one faults exactly when it
is `CPU_RD_PRG_SWITCH` with `bank_select >= PRG_BANKS`; the fault output is then
`{BANK_RANGE = 0x10, addr, bank_select}`. -/
def Obligations.OnlyOutOfRangeSwitchableReadFaults : Prop :=
  ∀ (i : Instr) (s : State), i.wf = true → s.life = .running → s.cfg.valid = true →
    ∃ t, exec i s = .next t ∧
      (t.life = .halted ↔ ((∃ a, i = .cpuRdPrgSwitch a) ∧ s.cfg.prgBanks ≤ s.bankSelect.toNat)) ∧
      (t.life = .halted → t.faultOutput = some (0x10, i.addr, s.bankSelect))

/-- R174, R175: a faulting operation writes the record of R171 to the latch, halts, signals the fault on its outputs,
and changes nothing else. -/
def Obligations.FaultEntryChangesNothingElse : Prop :=
  ∀ (i : Instr) (s t : State), exec i s = .next t → t.life = .halted →
    t =
      { s with
        fault := some { code := .bankRange, addr := i.addr, data := s.bankSelect }
        life := .halted
        response := .faulted { code := .bankRange, addr := i.addr, data := s.bankSelect } }

/-- R176: while Halted or Absent no transaction has a step; of the requests to the block `unload` alone has one in
Halted and `init` alone in Absent. That "has no step" is a fault with a name is the model's form (log entry 7). -/
def Obligations.StoppedStatesHaveNoStep : Prop :=
  ∀ s : State,
    (∀ i, (s.life = .halted → exec i s = .fault .haltedInstance) ∧
      (s.life = .absent → exec i s = .fault .noInstance)) ∧
    (s.life = .halted → (∀ p, execInit p s = .fault .initWhilePresent) ∧ ∃ t, execUnload s = .next t) ∧
    (s.life = .absent → execUnload s = .fault .unloadWhileAbsent ∧ ∀ p, ∃ t, execInit p s = .next t)

/-- R22, R176, R177: how one step can change `life`. A fault is left only by `unload`, Absent only by `init`. -/
def Obligations.LifeChangesOnlyByLifecycle : Prop :=
  ∀ (r : Request) (s t : State), serve r s = .next t →
    t.life = s.life ∨ (s.life = .absent ∧ t.life = .running ∧ ∃ p, r = .init p) ∨
      (s.life ≠ .absent ∧ t.life = .absent ∧ r = .unload) ∨
      (s.life = .running ∧ t.life = .halted ∧ ∃ w a, r = .transaction w ∧ decode w = .cpuRdPrgSwitch a)

/-! ## Initialisation, unload, reset (70_reset_and_hazards.md) -/

/-- R200, R202, R34: `init` that passes every check sets the reset values, takes the geometry of its parameters field
by field, and writes no VRAM. R188: the VRAM is the one of the handle sent, as it is (its form is the model's, log
entry 19; a byte of another VRAM that the handle does not list is the free value of log entry 4). -/
def Obligations.SuccessfulInitSetsResetValues : Prop :=
  ∀ (s : State) (p : Params) (m : MirrorMode), s.life = .absent → geometryConditions p →
    readMirror p.mirrorDecode p.headerByte = some m → p.allocOk = true →
    ∃ t, execInit p s = .next t ∧ t.life = .running ∧ t.bankSelect = 0x00 ∧ t.mirrorMode = m ∧
      (∀ k, t.readChr k = 0x00) ∧ t.fault = none ∧ t.diag = [] ∧ t.cfg = cartridgeOf p ∧
      t.cfg.imageLen = p.imageLen ∧ t.cfg.prgStart = p.prgStart ∧ t.cfg.prgLen = p.prgLen ∧
      t.cfg.chrStart = p.chrStart ∧ t.cfg.chrLen = p.chrLen ∧
      (p.vram = .held → t.vram = s.vram) ∧
      (∀ bytes, p.vram = .other bytes → ∀ o : BitVec 11,
        t.readVram o = (Memory.lookup bytes o.toNat).getD (Config.vramInit o.toNat)) ∧
      t.response = .initOk

/-- R21, R202: the image of the new instance holds, at every index below `IMAGE_LEN`, the byte the host gave. -/
def Obligations.InitTakesTheImageByteForByte : Prop :=
  ∀ (p : Params) (n : Nat), n < p.imageLen →
    (cartridgeOf p).readImage n = some ((Memory.lookup p.image n).getD 0x00)

/-- R201, R171, R172: the checks in their order, the code and record of the first that fails, no instance; and the
numbers of the three codes. That VRAM is the one held before, also where the handle names another, is the model's
choice: a failed `init` takes no handle (log entry 19). -/
def Obligations.FailedInitReportsFirstFailedCheck : Prop :=
  ∀ (s : State) (p : Params), s.life = .absent →
    (¬ geometryConditions p → ∃ t, execInit p s = .next t ∧ t.life = .absent ∧ t.fault = none ∧ t.vram = s.vram ∧
      t.response = .initFailed { code := .geometry, addr := 0, data := 0 }) ∧
    (geometryConditions p → readMirror p.mirrorDecode p.headerByte = none →
      ∃ t, execInit p s = .next t ∧ t.life = .absent ∧ t.fault = none ∧ t.vram = s.vram ∧
        t.response = .initFailed { code := .mirrorConfig, addr := 0, data := p.headerByte }) ∧
    (geometryConditions p → readMirror p.mirrorDecode p.headerByte ≠ none → p.allocOk = false →
      ∃ t, execInit p s = .next t ∧ t.life = .absent ∧ t.fault = none ∧ t.vram = s.vram ∧
        t.response = .initFailed { code := .resource, addr := 0, data := 0 }) ∧
    FaultCode.geometry.toByte = 0x01 ∧ FaultCode.mirrorConfig.toByte = 0x02 ∧ FaultCode.resource.toByte = 0x03

/-- R203: the default reading of the header byte, the spec's own decision D8 (log entry 8). -/
def Obligations.DefaultMirrorDecode : Prop :=
  ∀ h : Byte, (h.getLsbD 3 = true → readMirror .ines h = none) ∧
    (h.getLsbD 3 = false → h.getLsbD 0 = false → readMirror .ines h = some .horizontal) ∧
    (h.getLsbD 3 = false → h.getLsbD 0 = true → readMirror .ines h = some .vertical)

/-- R203, D8 (OPEN): every reading of the header byte can be given to `init` (the model's form, log entry 8). -/
def Obligations.EveryMirrorDecodeIsExpressible : Prop :=
  ∀ f : Byte → Option MirrorMode, ∃ rows, ∀ h, readMirror (.table rows) h = f h

/-- R205: `unload` makes the block Absent, discards the instance and leaves VRAM alone. The blanks that stand for what
was discarded are the model's choice (log entry 6). -/
def Obligations.UnloadDiscardsTheInstance : Prop :=
  ∀ s : State, s.life ≠ .absent → ∃ t, execUnload s = .next t ∧ t.life = .absent ∧ t.bankSelect = 0 ∧
    t.mirrorMode = .horizontal ∧ t.chrRam = [] ∧ t.fault = none ∧ t.diag = [] ∧ t.cfg = Cartridge.blank ∧
    ∀ o, t.readVram o = s.readVram o

/-- R177, R204, R191: no instance state survives an unload. After `unload` and a new `init`, two blocks that had the
same VRAM and the same schedule are equal, whatever their instances held. -/
def Obligations.NothingSurvivesReplacement : Prop :=
  ∀ (s s' : State) (p : Params), s.life ≠ .absent → s'.life ≠ .absent → s.vram = s'.vram →
    s.requests = s'.requests → s.scheduled = s'.scheduled →
    ∃ t t' u, execUnload s = .next t ∧ execUnload s' = .next t' ∧ execInit p t = .next u ∧ execInit p t' = .next u

/-- A console reset changes nothing: R206, the spec's own decision D30 (log entry 16, unsafe). A VRAM write by another
agent (R64) changes that byte and nothing of the block; that it is of one byte, comes in every `life` and leaves the
outputs is the model's choice (log entry 15). -/
def Obligations.OutsideEventsSpareTheBlock : Prop :=
  ∀ (s : State) (o : BitVec 11) (v : Byte), serve .consoleReset s = .next s ∧
    ∃ t, serve (.outsideVramWrite o v) s = .next t ∧ t = { s with vram := t.vram } ∧ t.readVram o = v ∧
      ∀ k, k ≠ o → t.readVram k = s.readVram k

/-- R34: the values the spec gives for the state after a successful `init`, at State.reset. -/
def Obligations.ResetHoldsTheSpecValues : Prop :=
  State.reset.life = .running ∧ State.reset.bankSelect = 0x00 ∧ (∀ k, State.reset.readChr k = 0x00) ∧
    State.reset.fault = none ∧ State.reset.diag = [] ∧
    ∀ o, State.reset.readVram o = Config.vramInit o.toNat

/-- R34, R202: State.reset is what `init` leaves for the parameters of log entry 3 (the model's choice of
parameters), in any Absent state, up to VRAM and the schedule, which `init` does not touch. -/
def Obligations.ResetIsTheStateAfterInit : Prop :=
  ∀ s : State, s.life = .absent → execInit Config.resetParams s =
    .next { State.reset with vram := s.vram, requests := s.requests, scheduled := s.scheduled }

/-! ## The step and its invariants -/

/-- R57, R61, R88: a step takes the next request placed and serves it: a transaction word is decoded and executed, a
lifecycle or outside request runs its own operation. -/
def Obligations.StepServesTheNextRequest : Prop :=
  ∀ (s : State) (r : Request) (rest : List Request), s.requests = r :: rest →
    step s = match r with
      | .transaction w => exec (decode w) { s with requests := rest }
      | .init p => execInit p { s with requests := rest }
      | .unload => execUnload { s with requests := rest }
      | .outsideVramWrite o v => execOutsideVramWrite o v { s with requests := rest }
      | .consoleReset => execConsoleReset { s with requests := rest }

/-- R62, U11 (the model's form, log entry 1): with none placed, the step serves the host's next free request. -/
def Obligations.StepFollowsTheFreeSchedule : Prop :=
  ∀ s : State, s.requests = [] →
    step s = serve (Config.hostSchedule s.scheduled) { s with scheduled := s.scheduled + 1 }

/-- R57, R61, in the model's form of the order (log entry 1): a step takes exactly one request and places none. With
some placed it takes the first of them; with none placed it takes one from the free schedule. -/
def Obligations.StepTakesExactlyOneRequest : Prop :=
  ∀ s t : State, step s = .next t → t.requests = s.requests.tail ∧
    (s.requests ≠ [] → t.scheduled = s.scheduled) ∧ (s.requests = [] → t.scheduled = s.scheduled + 1)

/-- The three memories stay in canonical form: R12's ranges, and the model's form of equal data (log entries 4, 5). -/
def Obligations.StepKeepsMemoriesCanonical : Prop :=
  ∀ s t : State, s.MemoriesCanonical → step s = .next t → t.MemoriesCanonical

/-- R35: every step keeps the invariants of the reachable states. The clause on Absent is the model's, that the blanks
of log entry 6 stay. -/
def Obligations.StepKeepsLifecycleConsistent : Prop :=
  ∀ s t : State, s.LifecycleConsistent → step s = .next t → t.LifecycleConsistent

/-- R27, R202: with CHR-ROM present CHR-RAM stays all 0x00, through every step. -/
def Obligations.StepKeepsChrRamUnused : Prop :=
  ∀ s t : State, s.LifecycleConsistent → s.ChrRamUnused → step s = .next t → t.ChrRamUnused

/-- R173, R175: through every step a halted block's latch names an access of the switchable window and the bank that
is still selected, which is past the last one. -/
def Obligations.StepKeepsFaultExplained : Prop :=
  ∀ s t : State, s.LifecycleConsistent → s.FaultExplained → step s = .next t → t.FaultExplained

/-- The invariants hold at State.reset (its configuration is the model's choice, log entry 3). -/
def Obligations.ResetMeetsTheInvariants : Prop :=
  State.reset.MemoriesCanonical ∧ State.reset.LifecycleConsistent ∧ State.reset.ChrRamUnused ∧
    State.reset.FaultExplained

/-- Equal memories are equal data: two canonical states whose CHR-RAM, and whose image of the same length, read
alike at every index hold the same CHR-RAM and the same image (log entry 5). -/
def Obligations.CanonicalMemoriesReadAlikeAreEqual : Prop :=
  ∀ s t : State, s.MemoriesCanonical → t.MemoriesCanonical →
    ((∀ k, s.readChr k = t.readChr k) → s.chrRam = t.chrRam) ∧
    (s.cfg.imageLen = t.cfg.imageLen → (∀ n, s.cfg.readImage n = t.cfg.readImage n) → s.cfg.image = t.cfg.image)

/-- R8, R21: every byte sequence is the image of some parameters (log entry 5). -/
def Obligations.EveryImageIsExpressible : Prop :=
  ∀ bytes : List Byte, ∃ cells : List Host.Cell, Memory.wf bytes.length romBlank cells = true ∧
    ∀ n, (Memory.lookup (Memory.ofCells romBlank bytes.length cells) n).getD 0x00 = bytes.getD n 0x00
end

