-- ==== Sys2Proof/Laws/Decode.lean ====
section
/-! SUPPORT. Words and their fields: what a row's mask tests, and the fields of a packed word. -/

namespace Sys2Proof

/-- Masking with the bits from `k` up clears the bits below `k`. -/
theorem and_highMask {n : Nat} (w : BitVec n) (k : Nat) : w &&& (BitVec.allOnes n <<< k) = (w >>> k) <<< k := by
  ext i hi
  by_cases h : i < k
  · simp [h]
  · have e : k + (i - k) = i := by omega
    simp [h, e, BitVec.getLsbD_eq_getElem, hi]

/-- A row whose mask is the bits from `k` up tests the word's quotient by `2 ^ k`. -/
theorem TxnWord.hits_iff {w mask row : TxnWord} (k : Nat) (hmask : mask = BitVec.allOnes 26 <<< k)
    (hrow : row = (row >>> k) <<< k) : w.hits mask row = true ↔ w.toNat / 2 ^ k = row.toNat / 2 ^ k := by
  subst hmask
  unfold TxnWord.hits
  rw [beq_iff_eq, and_highMask]
  constructor
  · intro h
    have hq : ∀ x : TxnWord, ((x >>> k) <<< k) >>> k = x >>> k := by
      intro x
      ext i hi
      by_cases hk : k + i < 26
      · simp [hk]
      · simp [hk, BitVec.getLsbD_of_ge x (k + i) (by omega)]
    have h' : w >>> k = row >>> k := by rw [← hq w, h]
    simpa [Nat.shiftRight_eq_div_pow] using congrArg BitVec.toNat h'
  · intro h
    have h' : w >>> k = row >>> k := BitVec.eq_of_toNat_eq (by simpa [Nat.shiftRight_eq_div_pow] using h)
    rw [h', ← hrow]

theorem packWord_toNat (p w : Bool) (a : Addr) (d : Byte) :
    (packWord p w a d).toNat = p.toNat * 2 ^ 25 + w.toNat * 2 ^ 24 + a.toNat * 2 ^ 8 + d.toNat := by
  have hp := Bool.toNat_le p
  have hw := Bool.toNat_le w
  have ha := a.isLt
  have hd := d.isLt
  unfold packWord
  rw [BitVec.toNat_ofNat]
  omega

theorem TxnWord.addr_toNat (w : TxnWord) : w.addr.toNat = w.toNat / 2 ^ 8 % 2 ^ 16 := by
  simp [TxnWord.addr, BitVec.extractLsb'_toNat, Nat.shiftRight_eq_div_pow]

theorem TxnWord.data_toNat (w : TxnWord) : w.data.toNat = w.toNat % 2 ^ 8 := by
  simp [TxnWord.data, BitVec.extractLsb'_toNat]

/-- The address field of a packed word (R81). -/
@[simp] theorem packWord_addr (p w : Bool) (a : Addr) (d : Byte) : TxnWord.addr (packWord p w a d) = a := by
  apply BitVec.eq_of_toNat_eq
  rw [TxnWord.addr_toNat, packWord_toNat]
  have := Bool.toNat_le p
  have := Bool.toNat_le w
  have := a.isLt
  have := d.isLt
  omega

/-- The data field of a packed word (R81). -/
@[simp] theorem packWord_data (p w : Bool) (a : Addr) (d : Byte) : TxnWord.data (packWord p w a d) = d := by
  apply BitVec.eq_of_toNat_eq
  rw [TxnWord.data_toNat, packWord_toNat]
  have := d.isLt
  omega

/-- The port and direction bits of a packed word (R81). -/
theorem packWord_bits (p w : Bool) (a : Addr) (d : Byte) :
    (packWord p w a d).toNat / 2 ^ 24 = 2 * p.toNat + w.toNat := by
  rw [packWord_toNat]
  have := a.isLt
  have := d.isLt
  omega

/-- Every word is the packing of its own four fields (R81). -/
theorem packWord_fields (w : TxnWord) :
    packWord (decide (w.toNat / 2 ^ 25 = 1)) (decide (w.toNat / 2 ^ 24 % 2 = 1)) w.addr w.data = w := by
  apply BitVec.eq_of_toNat_eq
  rw [packWord_toNat, TxnWord.addr_toNat, TxnWord.data_toNat]
  have := w.isLt
  have hb : ∀ n : Nat, n < 2 → (decide (n = 1)).toNat = n := by decide
  rw [hb _ (by omega), hb _ (by omega)]
  omega

/-! The decoder by the quotients its rows test. -/

theorem TxnWord.hits22 (w row : TxnWord) (hrow : row = (row >>> 22) <<< 22) :
    w.hits 0x3C00000 row = true ↔ w.toNat / 2 ^ 22 = row.toNat / 2 ^ 22 := TxnWord.hits_iff 22 (by decide) hrow

theorem TxnWord.hits23 (w row : TxnWord) (hrow : row = (row >>> 23) <<< 23) :
    w.hits 0x3800000 row = true ↔ w.toNat / 2 ^ 23 = row.toNat / 2 ^ 23 := TxnWord.hits_iff 23 (by decide) hrow

theorem TxnWord.hits21 (w row : TxnWord) (hrow : row = (row >>> 21) <<< 21) :
    w.hits 0x3E00000 row = true ↔ w.toNat / 2 ^ 21 = row.toNat / 2 ^ 21 := TxnWord.hits_iff 21 (by decide) hrow

theorem TxnWord.hits20 (w row : TxnWord) (hrow : row = (row >>> 20) <<< 20) :
    w.hits 0x3F00000 row = true ↔ w.toNat / 2 ^ 20 = row.toNat / 2 ^ 20 := TxnWord.hits_iff 20 (by decide) hrow

theorem TxnWord.hits16 (w row : TxnWord) (hrow : row = (row >>> 16) <<< 16) :
    w.hits 0x3FF0000 row = true ↔ w.toNat / 2 ^ 16 = row.toNat / 2 ^ 16 := TxnWord.hits_iff 16 (by decide) hrow

theorem TxnWord.hits24 (w row : TxnWord) (hrow : row = (row >>> 24) <<< 24) :
    w.hits 0x3000000 row = true ↔ w.toNat / 2 ^ 24 = row.toNat / 2 ^ 24 := TxnWord.hits_iff 24 (by decide) hrow


/-- `decode` with each row's test as a quotient of the word. -/
theorem decode_eq (w : TxnWord) : decode w =
    if w.toNat / 2 ^ 22 = 2 then .cpuRdPrgSwitch w.addr
    else if w.toNat / 2 ^ 22 = 3 then .cpuRdPrgFixed w.addr
    else if w.toNat / 2 ^ 23 = 0 then .cpuRdUnmapped w.addr
    else if w.toNat / 2 ^ 23 = 3 then .cpuWrBanksel w.addr w.data
    else if w.toNat / 2 ^ 23 = 2 then .cpuWrUnmapped w.addr w.data
    else if w.toNat / 2 ^ 21 = 16 then .ppuRdPattern w.addr
    else if w.toNat / 2 ^ 21 = 24 then .ppuWrPattern w.addr w.data
    else if w.toNat / 2 ^ 20 = 34 then .ppuRdNt w.addr
    else if w.toNat / 2 ^ 20 = 50 then .ppuWrNt w.addr w.data
    else if w.toNat / 2 ^ 16 = 575 then .ppuRdUnmapped3F w.addr
    else if w.toNat / 2 ^ 16 = 831 then .ppuWrUnmapped3F w.addr w.data
    else if w.toNat / 2 ^ 20 = 35 then .ppuRdNtMirror w.addr
    else if w.toNat / 2 ^ 20 = 51 then .ppuWrNtMirror w.addr w.data
    else if w.toNat / 2 ^ 24 = 2 then .ppuRdUnmapped w.addr
    else .ppuWrUnmapped w.addr w.data := by
  unfold decode
  simp only [w.hits22 0x0800000 (by decide), w.hits22 0x0C00000 (by decide), w.hits23 0x0000000 (by decide),
    w.hits23 0x1800000 (by decide), w.hits23 0x1000000 (by decide), w.hits21 0x2000000 (by decide),
    w.hits21 0x3000000 (by decide), w.hits20 0x2200000 (by decide), w.hits20 0x3200000 (by decide),
    w.hits16 0x23F0000 (by decide), w.hits16 0x33F0000 (by decide), w.hits20 0x2300000 (by decide),
    w.hits20 0x3300000 (by decide), w.hits24 0x2000000 (by decide)]
  rfl

/-- The quotients of a packed word that the rows test, in its fields. -/
theorem packWord_quotients (p w : Bool) (a : Addr) (d : Byte) :
    (packWord p w a d).toNat / 2 ^ 24 = 2 * p.toNat + w.toNat ∧
    (packWord p w a d).toNat / 2 ^ 23 = 4 * p.toNat + 2 * w.toNat + a.toNat / 0x8000 ∧
    (packWord p w a d).toNat / 2 ^ 22 = 8 * p.toNat + 4 * w.toNat + a.toNat / 0x4000 ∧
    (packWord p w a d).toNat / 2 ^ 21 = 16 * p.toNat + 8 * w.toNat + a.toNat / 0x2000 ∧
    (packWord p w a d).toNat / 2 ^ 20 = 32 * p.toNat + 16 * w.toNat + a.toNat / 0x1000 ∧
    (packWord p w a d).toNat / 2 ^ 16 = 512 * p.toNat + 256 * w.toNat + a.toNat / 0x100 := by
  rw [packWord_toNat]
  have := a.isLt
  have := d.isLt
  omega

/-- The decoder on a packed word, by port, direction and address range (R84). -/
theorem decode_packWord (p w : Bool) (a : Addr) (d : Byte) : decode (packWord p w a d) =
    match p, w with
    | false, false =>
      if a.toNat < 0x8000 then .cpuRdUnmapped a
      else if a.toNat < 0xC000 then .cpuRdPrgSwitch a else .cpuRdPrgFixed a
    | false, true => if a.toNat < 0x8000 then .cpuWrUnmapped a d else .cpuWrBanksel a d
    | true, false =>
      if a.toNat < 0x2000 then .ppuRdPattern a
      else if a.toNat < 0x3000 then .ppuRdNt a
      else if a.toNat < 0x3F00 then .ppuRdNtMirror a
      else if a.toNat < 0x4000 then .ppuRdUnmapped3F a else .ppuRdUnmapped a
    | true, true =>
      if a.toNat < 0x2000 then .ppuWrPattern a d
      else if a.toNat < 0x3000 then .ppuWrNt a d
      else if a.toNat < 0x3F00 then .ppuWrNtMirror a d
      else if a.toNat < 0x4000 then .ppuWrUnmapped3F a d else .ppuWrUnmapped a d := by
  obtain ⟨h24, h23, h22, h21, h20, h16⟩ := packWord_quotients p w a d
  rw [decode_eq, packWord_addr, packWord_data, h24, h23, h22, h21, h20, h16]
  have ha := a.isLt
  clear h24 h23 h22 h21 h20 h16
  have hr : a.toNat < 0x2000 ∨ (0x2000 ≤ a.toNat ∧ a.toNat < 0x3000) ∨ (0x3000 ≤ a.toNat ∧ a.toNat < 0x3F00) ∨
      (0x3F00 ≤ a.toNat ∧ a.toNat < 0x4000) ∨ (0x4000 ≤ a.toNat ∧ a.toNat < 0x8000) ∨
      (0x8000 ≤ a.toNat ∧ a.toNat < 0xC000) ∨ 0xC000 ≤ a.toNat := by omega
  cases p <;> cases w <;> simp only [Bool.toNat_false, Bool.toNat_true] <;>
    rcases hr with h | h | h | h | h | h | h <;>
    repeat first | rw [if_pos trivial] | rw [if_pos (by omega)] | rw [if_neg (by omega)]

/-- Every word is a packed word. -/
theorem exists_packWord (w : TxnWord) : ∃ p d, w = packWord p d w.addr w.data := ⟨_, _, (packWord_fields w).symm⟩

theorem Addr.within_iff (a : Addr) (lo hi : Nat) : Addr.within a lo hi = true ↔ lo ≤ a.toNat ∧ a.toNat ≤ hi := by
  simp [Addr.within]

end Sys2Proof
end

