-- ==== Sys2Proof/Laws/Memory.lean ====
section
/-! SUPPORT. The laws of the byte memories: what is read after a write, the canonical form of every operation's
result, and that canonical memories which read alike are equal. -/

namespace Sys2Proof.Machine

@[simp] theorem Memory.lookup_nil (k : Nat) : Memory.lookup [] k = none := rfl

theorem Memory.lookup_cons (a : Nat) (v : Byte) (m : Memory) (k : Nat) :
    Memory.lookup ((a, v) :: m) k = if k = a then some v else m.lookup k := rfl

/-- After `put k v` the index `k` lists `v` and every other index what it listed before. -/
theorem Memory.lookup_put (m : Memory) (k : Nat) (v : Byte) (j : Nat) :
    (m.put k v).lookup j = if j = k then some v else m.lookup j := by
  induction m with
  | nil => simp [Memory.put, Memory.lookup_cons]
  | cons c rest ih =>
    obtain ⟨a, w⟩ := c
    simp only [Memory.put]
    split
    · rw [Memory.lookup_cons]
    · split
      · next h => subst h; simp only [Memory.lookup_cons]; split <;> rfl
      · simp only [Memory.lookup_cons, ih]
        split <;> split <;> first | rfl | omega

/-- After `erase k` the index `k` lists nothing and every other index what it listed before. -/
theorem Memory.lookup_erase (m : Memory) (k j : Nat) :
    (m.erase k).lookup j = if j = k then none else m.lookup j := by
  induction m with
  | nil => simp [Memory.erase]
  | cons c rest ih =>
    obtain ⟨a, w⟩ := c
    simp only [Memory.erase]
    split
    · next h => subst h; rw [ih, Memory.lookup_cons]; split <;> rfl
    · simp only [Memory.lookup_cons, ih]
      split <;> split <;> first | rfl | omega

/-- Reading a byte after a canonical write, where an unlisted index holds `b`. -/
theorem Memory.getD_write (m : Memory) (b v : Byte) (k j : Nat) :
    ((m.write (some b) k v).lookup j).getD b = if j = k then v else (m.lookup j).getD b := by
  simp only [Memory.write]
  split
  · next h =>
    rw [Memory.lookup_erase]
    split
    · simpa using h
    · rfl
  · rw [Memory.lookup_put]; split <;> rfl

/-- Reading a byte after a write where no byte is known of an unlisted index. -/
theorem Memory.lookup_write_none (m : Memory) (k : Nat) (v : Byte) (j : Nat) :
    (m.write none k v).lookup j = if j = k then some v else m.lookup j := by
  simp [Memory.write, Memory.lookup_put]

theorem Memory.wfFrom_cons (lo size : Nat) (blank : Option Byte) (a : Nat) (v : Byte) (m : Memory) :
    Memory.wfFrom lo size blank ((a, v) :: m) = true ↔
      lo ≤ a ∧ a < size ∧ blank ≠ some v ∧ Memory.wfFrom (a + 1) size blank m = true := by
  simp [Memory.wfFrom, and_assoc]

theorem Memory.wfFrom_mono {lo lo' size : Nat} {blank : Option Byte} (h : lo' ≤ lo) (m : Memory)
    (hm : Memory.wfFrom lo size blank m = true) : Memory.wfFrom lo' size blank m = true := by
  cases m with
  | nil => rfl
  | cons c rest =>
    obtain ⟨a, v⟩ := c
    rw [Memory.wfFrom_cons] at hm ⊢
    exact ⟨h.trans hm.1, hm.2⟩

theorem Memory.wfFrom_put {lo size : Nat} {blank : Option Byte} (m : Memory) (k : Nat) (v : Byte)
    (hlo : lo ≤ k) (hk : k < size) (hv : blank ≠ some v) (hm : Memory.wfFrom lo size blank m = true) :
    Memory.wfFrom lo size blank (m.put k v) = true := by
  induction m generalizing lo with
  | nil => exact (Memory.wfFrom_cons ..).2 ⟨hlo, hk, hv, rfl⟩
  | cons c rest ih =>
    obtain ⟨a, w⟩ := c
    have hm' := hm
    rw [Memory.wfFrom_cons] at hm'
    obtain ⟨h1, h2, h3, h4⟩ := hm'
    simp only [Memory.put]
    split
    · next h => exact (Memory.wfFrom_cons ..).2 ⟨hlo, hk, hv, (Memory.wfFrom_cons ..).2 ⟨h, h2, h3, h4⟩⟩
    · split
      · next h => subst h; exact (Memory.wfFrom_cons ..).2 ⟨hlo, hk, hv, h4⟩
      · exact (Memory.wfFrom_cons ..).2 ⟨h1, h2, h3, ih (by omega) h4⟩

theorem Memory.wfFrom_erase {lo size : Nat} {blank : Option Byte} (m : Memory) (k : Nat)
    (hm : Memory.wfFrom lo size blank m = true) : Memory.wfFrom lo size blank (m.erase k) = true := by
  induction m generalizing lo with
  | nil => rfl
  | cons c rest ih =>
    obtain ⟨a, w⟩ := c
    rw [Memory.wfFrom_cons] at hm
    obtain ⟨h1, h2, h3, h4⟩ := hm
    simp only [Memory.erase]
    split
    · exact Memory.wfFrom_mono (by omega) _ (ih h4)
    · exact (Memory.wfFrom_cons ..).2 ⟨h1, h2, h3, ih h4⟩

/-- A write inside the memory keeps its canonical form. -/
theorem Memory.wf_write {size : Nat} {blank : Option Byte} (m : Memory) (k : Nat) (v : Byte) (hk : k < size)
    (hm : Memory.wf size blank m = true) : Memory.wf size blank (m.write blank k v) = true := by
  unfold Memory.write
  split
  · exact Memory.wfFrom_erase m k hm
  · next h => exact Memory.wfFrom_put m k v (Nat.zero_le k) hk h hm

/-- The memory made of any list of cells is canonical. -/
theorem Memory.wf_ofCells (blank : Option Byte) (size : Nat) (cells : List Host.Cell) :
    Memory.wf size blank (Memory.ofCells blank size cells) = true := by
  induction cells with
  | nil => rfl
  | cons c rest ih =>
    obtain ⟨k, v⟩ := c
    simp only [Memory.ofCells]
    split
    · next h => exact Memory.wf_write _ k v h ih
    · exact ih

/-- Inside the memory, cells taken with no blank byte known list what the cells list. -/
theorem Memory.lookup_ofCells_none (size : Nat) (cells : List Host.Cell) (k : Nat) (hk : k < size) :
    (Memory.ofCells none size cells).lookup k = Memory.lookup cells k := by
  induction cells with
  | nil => rfl
  | cons c rest ih =>
    obtain ⟨a, v⟩ := c
    simp only [Memory.ofCells, Memory.lookup_cons]
    split
    · rw [Memory.lookup_write_none, ih]
    · rw [ih, if_neg (by omega)]

@[simp] theorem handedVram_held (vram : Memory) : handedVram .held vram = vram := rfl

@[simp] theorem handedVram_other (bytes : List Host.Cell) (vram : Memory) :
    handedVram (.other bytes) vram = Memory.ofCells none Config.vramSize bytes := rfl

/-- Whatever VRAM is handed over, it is in canonical form if the one held was. -/
theorem wf_handedVram (h : VramHandle) (vram : Memory) (hv : Memory.wf Config.vramSize none vram = true) :
    Memory.wf Config.vramSize none (handedVram h vram) = true := by
  cases h with
  | held => exact hv
  | other bytes => exact Memory.wf_ofCells none Config.vramSize bytes

/-- A canonical memory lists nothing below its lowest index. -/
theorem Memory.lookup_below {lo size : Nat} {blank : Option Byte} (m : Memory)
    (hm : Memory.wfFrom lo size blank m = true) (k : Nat) (hk : k < lo) : m.lookup k = none := by
  induction m generalizing lo with
  | nil => rfl
  | cons c rest ih =>
    obtain ⟨a, v⟩ := c
    rw [Memory.wfFrom_cons] at hm
    rw [Memory.lookup_cons, if_neg (by omega)]
    exact ih hm.2.2.2 (by omega)

/-- A canonical memory lists nothing from its size up. -/
theorem Memory.lookup_beyond {lo size : Nat} {blank : Option Byte} (m : Memory)
    (hm : Memory.wfFrom lo size blank m = true) (k : Nat) (hk : size ≤ k) : m.lookup k = none := by
  induction m generalizing lo with
  | nil => rfl
  | cons c rest ih =>
    obtain ⟨a, v⟩ := c
    rw [Memory.wfFrom_cons] at hm
    rw [Memory.lookup_cons, if_neg (by omega)]
    exact ih hm.2.2.2

/-- No entry of a canonical memory holds the blank byte. -/
theorem Memory.lookup_ne_blank {lo size : Nat} {blank : Option Byte} (m : Memory)
    (hm : Memory.wfFrom lo size blank m = true) (k : Nat) (v : Byte) (hk : m.lookup k = some v) :
    blank ≠ some v := by
  induction m generalizing lo with
  | nil => simp at hk
  | cons c rest ih =>
    obtain ⟨a, w⟩ := c
    rw [Memory.wfFrom_cons] at hm
    rw [Memory.lookup_cons] at hk
    split at hk
    · cases hk; exact hm.2.2.1
    · exact ih hm.2.2.2 hk

end Sys2Proof.Machine
end

