-- ==== Sys2Proof/Laws/State.lean ====
section
/-! SUPPORT. For each update of the state, what each field reads afterwards: one lemma per field per update. -/

namespace Sys2Proof.Machine

variable (s : State)

@[simp] theorem State.answer_life (p : Port) (v : Byte) : (s.answer p v).life = s.life := rfl
@[simp] theorem State.answer_bankSelect (p : Port) (v : Byte) : (s.answer p v).bankSelect = s.bankSelect := rfl
@[simp] theorem State.answer_mirrorMode (p : Port) (v : Byte) : (s.answer p v).mirrorMode = s.mirrorMode := rfl
@[simp] theorem State.answer_chrRam (p : Port) (v : Byte) : (s.answer p v).chrRam = s.chrRam := rfl
@[simp] theorem State.answer_fault (p : Port) (v : Byte) : (s.answer p v).fault = s.fault := rfl
@[simp] theorem State.answer_diag (p : Port) (v : Byte) : (s.answer p v).diag = s.diag := rfl
@[simp] theorem State.answer_cfg (p : Port) (v : Byte) : (s.answer p v).cfg = s.cfg := rfl
@[simp] theorem State.answer_vram (p : Port) (v : Byte) : (s.answer p v).vram = s.vram := rfl
@[simp] theorem State.answer_response (p : Port) (v : Byte) : (s.answer p v).response = .readData p v := rfl
@[simp] theorem State.answer_requests (p : Port) (v : Byte) : (s.answer p v).requests = s.requests := rfl
@[simp] theorem State.answer_scheduled (p : Port) (v : Byte) : (s.answer p v).scheduled = s.scheduled := rfl

@[simp] theorem State.complete_life : s.complete.life = s.life := rfl
@[simp] theorem State.complete_bankSelect : s.complete.bankSelect = s.bankSelect := rfl
@[simp] theorem State.complete_mirrorMode : s.complete.mirrorMode = s.mirrorMode := rfl
@[simp] theorem State.complete_chrRam : s.complete.chrRam = s.chrRam := rfl
@[simp] theorem State.complete_fault : s.complete.fault = s.fault := rfl
@[simp] theorem State.complete_diag : s.complete.diag = s.diag := rfl
@[simp] theorem State.complete_cfg : s.complete.cfg = s.cfg := rfl
@[simp] theorem State.complete_vram : s.complete.vram = s.vram := rfl
@[simp] theorem State.complete_response : s.complete.response = .done := rfl
@[simp] theorem State.complete_requests : s.complete.requests = s.requests := rfl
@[simp] theorem State.complete_scheduled : s.complete.scheduled = s.scheduled := rfl

@[simp] theorem State.report_life (e : DiagEvent) : (s.report e).life = s.life := rfl
@[simp] theorem State.report_bankSelect (e : DiagEvent) : (s.report e).bankSelect = s.bankSelect := rfl
@[simp] theorem State.report_mirrorMode (e : DiagEvent) : (s.report e).mirrorMode = s.mirrorMode := rfl
@[simp] theorem State.report_chrRam (e : DiagEvent) : (s.report e).chrRam = s.chrRam := rfl
@[simp] theorem State.report_fault (e : DiagEvent) : (s.report e).fault = s.fault := rfl
@[simp] theorem State.report_diag (e : DiagEvent) : (s.report e).diag = s.diag ++ [e] := rfl
@[simp] theorem State.report_cfg (e : DiagEvent) : (s.report e).cfg = s.cfg := rfl
@[simp] theorem State.report_vram (e : DiagEvent) : (s.report e).vram = s.vram := rfl
@[simp] theorem State.report_response (e : DiagEvent) : (s.report e).response = s.response := rfl
@[simp] theorem State.report_requests (e : DiagEvent) : (s.report e).requests = s.requests := rfl
@[simp] theorem State.report_scheduled (e : DiagEvent) : (s.report e).scheduled = s.scheduled := rfl

@[simp] theorem State.setBankSelect_life (v : Byte) : (s.setBankSelect v).life = s.life := rfl
@[simp] theorem State.setBankSelect_bankSelect (v : Byte) : (s.setBankSelect v).bankSelect = v := rfl
@[simp] theorem State.setBankSelect_mirrorMode (v : Byte) : (s.setBankSelect v).mirrorMode = s.mirrorMode := rfl
@[simp] theorem State.setBankSelect_chrRam (v : Byte) : (s.setBankSelect v).chrRam = s.chrRam := rfl
@[simp] theorem State.setBankSelect_fault (v : Byte) : (s.setBankSelect v).fault = s.fault := rfl
@[simp] theorem State.setBankSelect_diag (v : Byte) : (s.setBankSelect v).diag = s.diag := rfl
@[simp] theorem State.setBankSelect_cfg (v : Byte) : (s.setBankSelect v).cfg = s.cfg := rfl
@[simp] theorem State.setBankSelect_vram (v : Byte) : (s.setBankSelect v).vram = s.vram := rfl
@[simp] theorem State.setBankSelect_response (v : Byte) : (s.setBankSelect v).response = s.response := rfl
@[simp] theorem State.setBankSelect_requests (v : Byte) : (s.setBankSelect v).requests = s.requests := rfl
@[simp] theorem State.setBankSelect_scheduled (v : Byte) : (s.setBankSelect v).scheduled = s.scheduled := rfl

@[simp] theorem State.writeChr_life (i : BitVec 13) (v : Byte) : (s.writeChr i v).life = s.life := rfl
@[simp] theorem State.writeChr_bankSelect (i : BitVec 13) (v : Byte) : (s.writeChr i v).bankSelect = s.bankSelect := rfl
@[simp] theorem State.writeChr_mirrorMode (i : BitVec 13) (v : Byte) : (s.writeChr i v).mirrorMode = s.mirrorMode := rfl
@[simp] theorem State.writeChr_chrRam (i : BitVec 13) (v : Byte) : (s.writeChr i v).chrRam = s.chrRam.write romBlank i.toNat v := rfl
@[simp] theorem State.writeChr_fault (i : BitVec 13) (v : Byte) : (s.writeChr i v).fault = s.fault := rfl
@[simp] theorem State.writeChr_diag (i : BitVec 13) (v : Byte) : (s.writeChr i v).diag = s.diag := rfl
@[simp] theorem State.writeChr_cfg (i : BitVec 13) (v : Byte) : (s.writeChr i v).cfg = s.cfg := rfl
@[simp] theorem State.writeChr_vram (i : BitVec 13) (v : Byte) : (s.writeChr i v).vram = s.vram := rfl
@[simp] theorem State.writeChr_response (i : BitVec 13) (v : Byte) : (s.writeChr i v).response = s.response := rfl
@[simp] theorem State.writeChr_requests (i : BitVec 13) (v : Byte) : (s.writeChr i v).requests = s.requests := rfl
@[simp] theorem State.writeChr_scheduled (i : BitVec 13) (v : Byte) : (s.writeChr i v).scheduled = s.scheduled := rfl

@[simp] theorem State.writeVram_life (o : BitVec 11) (v : Byte) : (s.writeVram o v).life = s.life := rfl
@[simp] theorem State.writeVram_bankSelect (o : BitVec 11) (v : Byte) : (s.writeVram o v).bankSelect = s.bankSelect := rfl
@[simp] theorem State.writeVram_mirrorMode (o : BitVec 11) (v : Byte) : (s.writeVram o v).mirrorMode = s.mirrorMode := rfl
@[simp] theorem State.writeVram_chrRam (o : BitVec 11) (v : Byte) : (s.writeVram o v).chrRam = s.chrRam := rfl
@[simp] theorem State.writeVram_fault (o : BitVec 11) (v : Byte) : (s.writeVram o v).fault = s.fault := rfl
@[simp] theorem State.writeVram_diag (o : BitVec 11) (v : Byte) : (s.writeVram o v).diag = s.diag := rfl
@[simp] theorem State.writeVram_cfg (o : BitVec 11) (v : Byte) : (s.writeVram o v).cfg = s.cfg := rfl
@[simp] theorem State.writeVram_vram (o : BitVec 11) (v : Byte) : (s.writeVram o v).vram = s.vram.write none o.toNat v := rfl
@[simp] theorem State.writeVram_response (o : BitVec 11) (v : Byte) : (s.writeVram o v).response = s.response := rfl
@[simp] theorem State.writeVram_requests (o : BitVec 11) (v : Byte) : (s.writeVram o v).requests = s.requests := rfl
@[simp] theorem State.writeVram_scheduled (o : BitVec 11) (v : Byte) : (s.writeVram o v).scheduled = s.scheduled := rfl

@[simp] theorem State.raise_life (r : FaultRecord) : (s.raise r).life = .halted := rfl
@[simp] theorem State.raise_bankSelect (r : FaultRecord) : (s.raise r).bankSelect = s.bankSelect := rfl
@[simp] theorem State.raise_mirrorMode (r : FaultRecord) : (s.raise r).mirrorMode = s.mirrorMode := rfl
@[simp] theorem State.raise_chrRam (r : FaultRecord) : (s.raise r).chrRam = s.chrRam := rfl
@[simp] theorem State.raise_fault (r : FaultRecord) : (s.raise r).fault = some r := rfl
@[simp] theorem State.raise_diag (r : FaultRecord) : (s.raise r).diag = s.diag := rfl
@[simp] theorem State.raise_cfg (r : FaultRecord) : (s.raise r).cfg = s.cfg := rfl
@[simp] theorem State.raise_vram (r : FaultRecord) : (s.raise r).vram = s.vram := rfl
@[simp] theorem State.raise_response (r : FaultRecord) : (s.raise r).response = .faulted r := rfl
@[simp] theorem State.raise_requests (r : FaultRecord) : (s.raise r).requests = s.requests := rfl
@[simp] theorem State.raise_scheduled (r : FaultRecord) : (s.raise r).scheduled = s.scheduled := rfl

@[simp] theorem State.discard_life : s.discard.life = .absent := rfl
@[simp] theorem State.discard_bankSelect : s.discard.bankSelect = 0x00 := rfl
@[simp] theorem State.discard_mirrorMode : s.discard.mirrorMode = .horizontal := rfl
@[simp] theorem State.discard_chrRam : s.discard.chrRam = [] := rfl
@[simp] theorem State.discard_fault : s.discard.fault = none := rfl
@[simp] theorem State.discard_diag : s.discard.diag = [] := rfl
@[simp] theorem State.discard_cfg : s.discard.cfg = Cartridge.blank := rfl
@[simp] theorem State.discard_vram : s.discard.vram = s.vram := rfl
@[simp] theorem State.discard_response : s.discard.response = s.response := rfl
@[simp] theorem State.discard_requests : s.discard.requests = s.requests := rfl
@[simp] theorem State.discard_scheduled : s.discard.scheduled = s.scheduled := rfl

@[simp] theorem State.initialise_life (p : Params) (m : MirrorMode) : (s.initialise p m).life = .running := rfl
@[simp] theorem State.initialise_bankSelect (p : Params) (m : MirrorMode) : (s.initialise p m).bankSelect = 0x00 := rfl
@[simp] theorem State.initialise_mirrorMode (p : Params) (m : MirrorMode) : (s.initialise p m).mirrorMode = m := rfl
@[simp] theorem State.initialise_chrRam (p : Params) (m : MirrorMode) : (s.initialise p m).chrRam = [] := rfl
@[simp] theorem State.initialise_fault (p : Params) (m : MirrorMode) : (s.initialise p m).fault = none := rfl
@[simp] theorem State.initialise_diag (p : Params) (m : MirrorMode) : (s.initialise p m).diag = [] := rfl
@[simp] theorem State.initialise_cfg (p : Params) (m : MirrorMode) : (s.initialise p m).cfg = cartridgeOf p := rfl
@[simp] theorem State.initialise_vram (p : Params) (m : MirrorMode) : (s.initialise p m).vram = handedVram p.vram s.vram := rfl
@[simp] theorem State.initialise_response (p : Params) (m : MirrorMode) : (s.initialise p m).response = .initOk := rfl
@[simp] theorem State.initialise_requests (p : Params) (m : MirrorMode) : (s.initialise p m).requests = s.requests := rfl
@[simp] theorem State.initialise_scheduled (p : Params) (m : MirrorMode) : (s.initialise p m).scheduled = s.scheduled := rfl

@[simp] theorem State.rejectInit_life (r : FaultRecord) : (s.rejectInit r).life = .absent := rfl
@[simp] theorem State.rejectInit_bankSelect (r : FaultRecord) : (s.rejectInit r).bankSelect = 0x00 := rfl
@[simp] theorem State.rejectInit_mirrorMode (r : FaultRecord) : (s.rejectInit r).mirrorMode = .horizontal := rfl
@[simp] theorem State.rejectInit_chrRam (r : FaultRecord) : (s.rejectInit r).chrRam = [] := rfl
@[simp] theorem State.rejectInit_fault (r : FaultRecord) : (s.rejectInit r).fault = none := rfl
@[simp] theorem State.rejectInit_diag (r : FaultRecord) : (s.rejectInit r).diag = [] := rfl
@[simp] theorem State.rejectInit_cfg (r : FaultRecord) : (s.rejectInit r).cfg = Cartridge.blank := rfl
@[simp] theorem State.rejectInit_vram (r : FaultRecord) : (s.rejectInit r).vram = s.vram := rfl
@[simp] theorem State.rejectInit_response (r : FaultRecord) : (s.rejectInit r).response = .initFailed r := rfl
@[simp] theorem State.rejectInit_requests (r : FaultRecord) : (s.rejectInit r).requests = s.requests := rfl
@[simp] theorem State.rejectInit_scheduled (r : FaultRecord) : (s.rejectInit r).scheduled = s.scheduled := rfl

end Sys2Proof.Machine
end

