-- ==== Sys2Proof/Laws/Ops.lean ====
section
/-! SUPPORT. For each shared operation, once, everything it can do. -/

namespace Sys2Proof.Machine

/-- In Running the body runs. -/
theorem State.whenRunning_running {s : State} (h : s.life = .running) (k : Out) : s.whenRunning k = k := by
  simp [State.whenRunning, h]

theorem State.whenRunning_halted {s : State} (h : s.life = .halted) (k : Out) :
    s.whenRunning k = .fault .haltedInstance := by
  simp [State.whenRunning, h]

theorem State.whenRunning_absent {s : State} (h : s.life = .absent) (k : Out) :
    s.whenRunning k = .fault .noInstance := by
  simp [State.whenRunning, h]

/-- A transaction that answers a next state was met in Running, and its body answered it. -/
theorem State.whenRunning_next {s t : State} {k : Out} (h : s.whenRunning k = .next t) :
    s.life = .running ∧ k = .next t := by
  unfold State.whenRunning at h
  split at h
  · exact ⟨‹_›, h⟩
  · cases h
  · cases h

/-- A completed image read answers a byte of the image and changes nothing else. -/
theorem State.returnImage_next {s t : State} {p : Port} {i : Nat} (h : s.returnImage p i = .next t) :
    ∃ v, s.cfg.readImage i = some v ∧ t = s.answer p v := by
  unfold State.returnImage at h
  split at h
  · next v hv => exact ⟨v, hv, by cases h; rfl⟩
  · cases h

theorem State.returnImage_of_some {s : State} {i : Nat} {v : Byte} (p : Port) (h : s.cfg.readImage i = some v) :
    s.returnImage p i = .next (s.answer p v) := by
  simp [State.returnImage, h]

/-- A byte exists at every index below the image's length. -/
theorem Cartridge.readImage_of_lt {c : Cartridge} {i : Nat} (h : i < c.imageLen) :
    c.readImage i = some ((c.image.lookup i).getD 0x00) := if_pos h

/-- Reading CHR-RAM after a write of one byte. -/
theorem State.readChr_writeChr (s : State) (i j : BitVec 13) (v : Byte) :
    (s.writeChr i v).readChr j = if j = i then v else s.readChr j := by
  have := Memory.getD_write s.chrRam 0x00 v i.toNat j.toNat
  simp only [BitVec.toNat_inj] at this
  exact this

/-- Reading VRAM after a write of one byte. -/
theorem State.readVram_writeVram (s : State) (o j : BitVec 11) (v : Byte) :
    (s.writeVram o v).readVram j = if j = o then v else s.readVram j := by
  simp only [State.readVram, State.writeVram_vram, Memory.lookup_write_none, BitVec.toNat_inj]
  split <;> rfl

/-- What the next request is and what taking it changes. -/
theorem State.takeRequest_cases (s : State) :
    (∃ r rest, s.requests = r :: rest ∧ s.takeRequest = (r, { s with requests := rest })) ∨
      (s.requests = [] ∧
        s.takeRequest = (Config.hostSchedule s.scheduled, { s with scheduled := s.scheduled + 1 })) := by
  unfold State.takeRequest
  split
  · next r rest h => exact .inl ⟨r, rest, h, rfl⟩
  · next h => exact .inr ⟨h, rfl⟩

/-- `init` in Absent either initialises with a mode the header byte decodes to and valid geometry, or returns an
error and leaves no instance. -/
theorem State.runInit_cases (s : State) (p : Params) :
    (∃ m, geometryOkOf p = true ∧ readMirror p.mirrorDecode p.headerByte = some m ∧ p.allocOk = true ∧
        s.runInit p = s.initialise p m) ∨
      (∃ r, s.runInit p = s.rejectInit r) := by
  unfold State.runInit
  split
  · next hg =>
    split
    · next m hm =>
      split
      · next ha => exact .inl ⟨m, hg, hm, ha, rfl⟩
      · exact .inr ⟨_, rfl⟩
    · exact .inr ⟨_, rfl⟩
  · exact .inr ⟨_, rfl⟩

/-- What `init` can do when it answers a next state. -/
theorem execInit_next {p : Params} {s t : State} (h : execInit p s = .next t) :
    s.life = .absent ∧ t = s.runInit p := by
  unfold execInit at h
  split at h
  · exact ⟨‹_›, by cases h; rfl⟩
  · cases h
  · cases h

/-- Check 1 of `init`, as propositions (R201). -/
theorem geometryOk_iff (imageLen prgStart prgLen chrStart chrLen : Nat) :
    geometryOk imageLen prgStart prgLen chrStart chrLen = true ↔
      0 < prgLen ∧ prgLen % 0x4000 = 0 ∧ (chrLen = 0 ∨ chrLen % 0x2000 = 0) ∧ prgStart + prgLen ≤ imageLen ∧
        (chrLen = 0 ∨ chrStart + chrLen ≤ imageLen) := by
  unfold geometryOk Config.bankSize Config.chrRamSize
  simp only [Bool.and_eq_true, Bool.or_eq_true, decide_eq_true_eq, and_assoc]

/-- What `unload` can do when it answers a next state. -/
theorem execUnload_next {s t : State} (h : execUnload s = .next t) :
    s.life ≠ .absent ∧ t = { s.discard with response := .unloaded } := by
  unfold execUnload at h
  split at h
  · cases h
  · next hl => exact ⟨by simp [hl], by cases h; rfl⟩
  · next hl => exact ⟨by simp [hl], by cases h; rfl⟩

end Sys2Proof.Machine
end

