-- ==== Sys2Proof/Laws/Exec.lean ====
section
/-! SUPPORT. Everything a transaction can do when it answers a next state: ten shapes. -/

namespace Sys2Proof.Machine

/-- The inversion of `exec`: the block was Running, and the next state has one of these shapes. -/
theorem exec_cases {i : Instr} {s t : State} (h : exec i s = .next t) :
    s.life = .running ∧
      ((∃ a, i = .cpuRdPrgSwitch a ∧ s.cfg.prgLen ≤ prgSwitchOffset a s.bankSelect ∧
          t = s.raise { code := .bankRange, addr := a, data := s.bankSelect }) ∨
        (∃ a v, (i = .cpuRdPrgSwitch a ∨ i = .cpuRdPrgFixed a) ∧ t = s.answer .cpu v) ∨
        (∃ a v, (i = .ppuRdPattern a ∨ i = .ppuRdNt a ∨ i = .ppuRdNtMirror a) ∧ t = s.answer .ppu v) ∨
        (∃ a, i = .cpuRdUnmapped a ∧ t = (s.report (.cpuReadUnmapped a)).answer .cpu 0x00) ∨
        (∃ a, (i = .ppuRdUnmapped3F a ∨ i = .ppuRdUnmapped a) ∧
          t = (s.report (.ppuReadUnmapped a)).answer .ppu 0x00) ∨
        (∃ a v, i = .cpuWrBanksel a v ∧ t = (s.setBankSelect v).complete) ∨
        (∃ a v, i = .cpuWrUnmapped a v ∧ t = (s.report (.cpuWriteUnmapped a v)).complete) ∨
        (∃ a v, (i = .ppuWrUnmapped3F a v ∨ i = .ppuWrUnmapped a v) ∧
          t = (s.report (.ppuWriteUnmapped a v)).complete) ∨
        (∃ a v, i = .ppuWrPattern a v ∧
          ((0 < s.cfg.chrLen ∧ t = (s.report (.chrRomWrite a v)).complete) ∨
            (s.cfg.chrLen = 0 ∧ t = (s.writeChr (chrIndex a) v).complete))) ∨
        (∃ a b v, ((i = .ppuWrNt a v ∧ b = a) ∨ (i = .ppuWrNtMirror a v ∧ b = mirrorDown a)) ∧
          t = (s.writeVram (ntOffset b s.mirrorMode) v).complete)) := by
  cases i with
  | cpuRdPrgSwitch a =>
    obtain ⟨hr, h⟩ := State.whenRunning_next h
    refine ⟨hr, ?_⟩
    split at h
    · next hb => exact .inl ⟨a, rfl, hb, by cases h; rfl⟩
    · obtain ⟨v, -, rfl⟩ := State.returnImage_next h
      exact .inr (.inl ⟨a, v, .inl rfl, rfl⟩)
  | cpuRdPrgFixed a =>
    obtain ⟨hr, h⟩ := State.whenRunning_next h
    obtain ⟨v, -, rfl⟩ := State.returnImage_next h
    exact ⟨hr, .inr (.inl ⟨a, v, .inr rfl, rfl⟩)⟩
  | cpuRdUnmapped a =>
    obtain ⟨hr, h⟩ := State.whenRunning_next h
    cases h
    exact ⟨hr, .inr (.inr (.inr (.inl ⟨a, rfl, rfl⟩)))⟩
  | cpuWrBanksel a v =>
    obtain ⟨hr, h⟩ := State.whenRunning_next h
    cases h
    exact ⟨hr, .inr (.inr (.inr (.inr (.inr (.inl ⟨a, v, rfl, rfl⟩)))))⟩
  | cpuWrUnmapped a v =>
    obtain ⟨hr, h⟩ := State.whenRunning_next h
    cases h
    exact ⟨hr, .inr (.inr (.inr (.inr (.inr (.inr (.inl ⟨a, v, rfl, rfl⟩))))))⟩
  | ppuRdPattern a =>
    obtain ⟨hr, h⟩ := State.whenRunning_next h
    split at h
    · obtain ⟨v, -, rfl⟩ := State.returnImage_next h
      exact ⟨hr, .inr (.inr (.inl ⟨a, v, .inl rfl, rfl⟩))⟩
    · cases h
      exact ⟨hr, .inr (.inr (.inl ⟨a, _, .inl rfl, rfl⟩))⟩
  | ppuWrPattern a v =>
    obtain ⟨hr, h⟩ := State.whenRunning_next h
    split at h
    · next hc => exact ⟨hr, .inr (.inr (.inr (.inr (.inr (.inr (.inr (.inr (.inl ⟨a, v, rfl, .inl ⟨hc, by cases h; rfl⟩⟩))))))))⟩
    · next hc => exact ⟨hr, .inr (.inr (.inr (.inr (.inr (.inr (.inr (.inr (.inl ⟨a, v, rfl, .inr ⟨by omega, by cases h; rfl⟩⟩))))))))⟩
  | ppuRdNt a =>
    obtain ⟨hr, h⟩ := State.whenRunning_next h
    cases h
    exact ⟨hr, .inr (.inr (.inl ⟨a, _, .inr (.inl rfl), rfl⟩))⟩
  | ppuWrNt a v =>
    obtain ⟨hr, h⟩ := State.whenRunning_next h
    cases h
    exact ⟨hr, .inr (.inr (.inr (.inr (.inr (.inr (.inr (.inr (.inr (⟨a, a, v, .inl ⟨rfl, rfl⟩, rfl⟩)))))))))⟩
  | ppuRdUnmapped3F a =>
    obtain ⟨hr, h⟩ := State.whenRunning_next h
    cases h
    exact ⟨hr, .inr (.inr (.inr (.inr (.inl ⟨a, .inl rfl, rfl⟩))))⟩
  | ppuWrUnmapped3F a v =>
    obtain ⟨hr, h⟩ := State.whenRunning_next h
    cases h
    exact ⟨hr, .inr (.inr (.inr (.inr (.inr (.inr (.inr (.inl ⟨a, v, .inl rfl, rfl⟩)))))))⟩
  | ppuRdNtMirror a =>
    obtain ⟨hr, h⟩ := State.whenRunning_next h
    cases h
    exact ⟨hr, .inr (.inr (.inl ⟨a, _, .inr (.inr rfl), rfl⟩))⟩
  | ppuWrNtMirror a v =>
    obtain ⟨hr, h⟩ := State.whenRunning_next h
    cases h
    exact ⟨hr, .inr (.inr (.inr (.inr (.inr (.inr (.inr (.inr (.inr (⟨a, _, v, .inr ⟨rfl, rfl⟩, rfl⟩)))))))))⟩
  | ppuRdUnmapped a =>
    obtain ⟨hr, h⟩ := State.whenRunning_next h
    cases h
    exact ⟨hr, .inr (.inr (.inr (.inr (.inl ⟨a, .inr rfl, rfl⟩))))⟩
  | ppuWrUnmapped a v =>
    obtain ⟨hr, h⟩ := State.whenRunning_next h
    cases h
    exact ⟨hr, .inr (.inr (.inr (.inr (.inr (.inr (.inr (.inl ⟨a, v, .inr rfl, rfl⟩)))))))⟩

/-- What one served request can do: a transaction as `exec_cases` says, or a request with no word. -/
theorem serve_cases {r : Request} {s t : State} (h : serve r s = .next t) :
    (∃ w, r = .transaction w ∧ exec (decode w) s = .next t) ∨
      (∃ p, r = .init p ∧ s.life = .absent ∧ t = s.runInit p) ∨
      (r = .unload ∧ s.life ≠ .absent ∧ t = { s.discard with response := .unloaded }) ∨
      (∃ o v, r = .outsideVramWrite o v ∧ t = s.writeVram o v) ∨ (r = .consoleReset ∧ t = s) := by
  cases r with
  | transaction w => exact .inl ⟨w, rfl, h⟩
  | init p => exact .inr (.inl ⟨p, rfl, execInit_next h⟩)
  | unload => exact .inr (.inr (.inl ⟨rfl, execUnload_next h⟩))
  | outsideVramWrite o v => exact .inr (.inr (.inr (.inl ⟨o, v, rfl, by cases h; rfl⟩)))
  | consoleReset => exact .inr (.inr (.inr (.inr ⟨rfl, by cases h; rfl⟩)))

end Sys2Proof.Machine
end

