-- ==== Sys2Proof/Laws/Operands.lean ====
section
/-! SUPPORT. The address forms as numbers. -/

namespace Sys2Proof.Machine

theorem chrIndex_toNat {a : Addr} (h : a.toNat ≤ 0x1FFF) : (chrIndex a).toNat = a.toNat := by
  simp only [chrIndex, BitVec.toNat_setWidth]
  omega

/-- Different pattern-table addresses are different bytes of CHR-RAM. -/
theorem chrIndex_inj {a b : Addr} (ha : a.toNat ≤ 0x1FFF) (hb : b.toNat ≤ 0x1FFF) :
    chrIndex b = chrIndex a ↔ b = a := by
  rw [← BitVec.toNat_inj, chrIndex_toNat ha, chrIndex_toNat hb, BitVec.toNat_inj]

theorem ntOffset_vertical_toNat (a : Addr) : (ntOffset a .vertical).toNat = a.toNat % 0x800 := by
  have e : a.toNat &&& 0x7FF = a.toNat % 0x800 := Nat.and_two_pow_sub_one_eq_mod a.toNat 11
  have e' : (0x7FF : Addr).toNat = 0x7FF := rfl
  simp only [ntOffset, BitVec.toNat_setWidth, BitVec.toNat_and, e', e]
  omega

theorem ntOffset_horizontal_toNat (a : Addr) :
    (ntOffset a .horizontal).toNat = a.toNat % 0x400 + (if a.toNat < 0x2800 then 0 else 0x400) := by
  have e : a.toNat &&& 0x3FF = a.toNat % 0x400 := Nat.and_two_pow_sub_one_eq_mod a.toNat 10
  have e' : (0x3FF : Addr).toNat = 0x3FF := rfl
  have ei : (if a < 0x2800 then (0 : Addr) else 0x400).toNat = if a.toNat < 0x2800 then 0 else 0x400 := by
    by_cases h : a < 0x2800
    · rw [if_pos h, if_pos (show a.toNat < 0x2800 from h)]; rfl
    · rw [if_neg h, if_neg (show ¬ a.toNat < 0x2800 from h)]; rfl
  simp only [ntOffset, BitVec.toNat_setWidth, BitVec.toNat_add, BitVec.toNat_and, e', e, ei]
  split <;> omega

theorem mirrorDown_toNat {a : Addr} (h : 0x1000 ≤ a.toNat) : (mirrorDown a).toNat = a.toNat - 0x1000 := by
  have := a.isLt
  have e : (0x1000 : Addr).toNat = 0x1000 := rfl
  simp only [mirrorDown, BitVec.toNat_sub, e]
  omega

/-- A bit of an address as a number. -/
theorem getLsbD_toNat (a : Addr) (n : Nat) : (a.getLsbD n).toNat = a.toNat / 2 ^ n % 2 := by
  rw [BitVec.getLsbD, Nat.testBit_eq_decide_div_mod_eq]
  have h : ∀ m : Nat, m < 2 → (decide (m = 1)).toNat = m := by decide
  exact h _ (by omega)

end Sys2Proof.Machine
end

