-- ==== Sys2Proof/Laws/PerInstr.lean ====
section
/-! SUPPORT. Facts about each operation as syntax, one lemma per constructor. Family `EncodeFields`: the word that
`encode` gives carries the operation's port, direction, address and value in the fields of 30_encoding.md R81. -/

namespace Sys2Proof.Laws.EncodeFields

/-- The fields of the encoded word are the operation's own. -/
def Statement (i : Instr) : Prop :=
  (encode i).toNat / 2 ^ 24 = 2 * (!i.onCpuPort).toNat + i.isWrite.toNat ∧ TxnWord.addr (encode i) = i.addr ∧
    TxnWord.data (encode i) = i.val

/-- The shape of all 15 proofs. -/
theorem of_pack (p w : Bool) (a : Addr) (d : Byte) :
    (packWord p w a d).toNat / 2 ^ 24 = 2 * p.toNat + w.toNat ∧ TxnWord.addr (packWord p w a d) = a ∧
      TxnWord.data (packWord p w a d) = d :=
  ⟨packWord_bits p w a d, packWord_addr p w a d, packWord_data p w a d⟩

theorem cpuRdPrgSwitch (a : Addr) : Statement (.cpuRdPrgSwitch a) := of_pack _ _ a 0
theorem cpuRdPrgFixed (a : Addr) : Statement (.cpuRdPrgFixed a) := of_pack _ _ a 0
theorem cpuRdUnmapped (a : Addr) : Statement (.cpuRdUnmapped a) := of_pack _ _ a 0
theorem cpuWrBanksel (a : Addr) (v : Byte) : Statement (.cpuWrBanksel a v) := of_pack _ _ a v
theorem cpuWrUnmapped (a : Addr) (v : Byte) : Statement (.cpuWrUnmapped a v) := of_pack _ _ a v
theorem ppuRdPattern (a : Addr) : Statement (.ppuRdPattern a) := of_pack _ _ a 0
theorem ppuWrPattern (a : Addr) (v : Byte) : Statement (.ppuWrPattern a v) := of_pack _ _ a v
theorem ppuRdNt (a : Addr) : Statement (.ppuRdNt a) := of_pack _ _ a 0
theorem ppuWrNt (a : Addr) (v : Byte) : Statement (.ppuWrNt a v) := of_pack _ _ a v
theorem ppuRdUnmapped3F (a : Addr) : Statement (.ppuRdUnmapped3F a) := of_pack _ _ a 0
theorem ppuWrUnmapped3F (a : Addr) (v : Byte) : Statement (.ppuWrUnmapped3F a v) := of_pack _ _ a v
theorem ppuRdNtMirror (a : Addr) : Statement (.ppuRdNtMirror a) := of_pack _ _ a 0
theorem ppuWrNtMirror (a : Addr) (v : Byte) : Statement (.ppuWrNtMirror a v) := of_pack _ _ a v
theorem ppuRdUnmapped (a : Addr) : Statement (.ppuRdUnmapped a) := of_pack _ _ a 0
theorem ppuWrUnmapped (a : Addr) (v : Byte) : Statement (.ppuWrUnmapped a v) := of_pack _ _ a v

end Sys2Proof.Laws.EncodeFields
end

