-- ==== Sys2Proof/Laws/Response.lean ====
section
/-! SUPPORT. What each operation answers on the outputs, as a function of the fields it reads. -/

namespace Sys2Proof.Machine

theorem responseOf_whenRunning (s : State) (k : Out) :
    responseOf (s.whenRunning k) = if s.life = .running then responseOf k else none := by
  cases h : s.life <;> simp [State.whenRunning, h, responseOf]

theorem responseOf_returnImage (s : State) (p : Port) (n : Nat) :
    responseOf (s.returnImage p n) = (s.cfg.readImage n).map (.readData p) := by
  unfold State.returnImage
  cases s.cfg.readImage n <;> rfl

/-- The answer of every operation: none when the instance is not Running. -/
theorem responseOf_exec (i : Instr) (s : State) : responseOf (exec i s) =
    if s.life = .running then
      match i with
      | .cpuRdPrgSwitch a =>
        if s.cfg.prgLen ≤ prgSwitchOffset a s.bankSelect then
          some (.faulted { code := .bankRange, addr := a, data := s.bankSelect })
        else (s.cfg.readImage (s.cfg.prgStart + prgSwitchOffset a s.bankSelect)).map (.readData .cpu)
      | .cpuRdPrgFixed a =>
        (s.cfg.readImage (s.cfg.prgStart + prgFixedOffset a s.cfg.prgLen)).map (.readData .cpu)
      | .cpuRdUnmapped _ => some (.readData .cpu 0x00)
      | .cpuWrBanksel _ _ => some .done
      | .cpuWrUnmapped _ _ => some .done
      | .ppuRdPattern a =>
        if 0 < s.cfg.chrLen then (s.cfg.readImage (s.cfg.chrStart + a.toNat)).map (.readData .ppu)
        else some (.readData .ppu (s.readChr (chrIndex a)))
      | .ppuWrPattern _ _ => some .done
      | .ppuRdNt a => some (.readData .ppu (s.readVram (ntOffset a s.mirrorMode)))
      | .ppuWrNt _ _ => some .done
      | .ppuRdUnmapped3F _ => some (.readData .ppu 0x00)
      | .ppuWrUnmapped3F _ _ => some .done
      | .ppuRdNtMirror a => some (.readData .ppu (s.readVram (ntOffset (mirrorDown a) s.mirrorMode)))
      | .ppuWrNtMirror _ _ => some .done
      | .ppuRdUnmapped _ => some (.readData .ppu 0x00)
      | .ppuWrUnmapped _ _ => some .done
    else none := by
  cases i with
  | cpuRdPrgSwitch a =>
    refine (responseOf_whenRunning s _).trans (congrArg (ite _ · none) ?_)
    by_cases h : s.cfg.prgLen ≤ prgSwitchOffset a s.bankSelect
    · simp only [h, if_true]
      rfl
    · simp only [h, if_false]
      exact responseOf_returnImage s _ _
  | cpuRdPrgFixed a =>
    exact (responseOf_whenRunning s _).trans (congrArg (ite _ · none) (responseOf_returnImage s _ _))
  | ppuRdPattern a =>
    refine (responseOf_whenRunning s _).trans (congrArg (ite _ · none) ?_)
    by_cases h : 0 < s.cfg.chrLen
    · simp only [h, if_true]
      exact responseOf_returnImage s _ _
    · simp only [h, if_false]
      rfl
  | ppuWrPattern a v =>
    refine (responseOf_whenRunning s _).trans (congrArg (ite _ · none) ?_)
    split <;> rfl
  | _ => exact responseOf_whenRunning s _

end Sys2Proof.Machine
end

