-- ==== Sys2Proof/Tests/Slice0.lean ====
section
/-! SUPPORT. The model's own tests: well-formedness, decoding from words written out by hand, one step per
operation with the results of 95_test_vectors.md, and for every statement with hypotheses a state and operands that
meet them together. -/

namespace Sys2Proof.Tests

open Sys2Proof.Machine

/-! ## Small states: the configurations A and B of 95_test_vectors.md, with the few image bytes the tests read -/

/-- Configuration A: two PRG banks, CHR-ROM, Horizontal. -/
def confA : Params :=
  { image := [(0x15, 0x05), (0x400F, 0x0F), (0x4010, 0x10), (0x4015, 0x15), (0x800C, 0x1C), (0x800F, 0x1F),
      (0x8010, 0xC0), (0x8020, 0xD0), (0xA00F, 0xFF)],
    imageLen := 0xA010, prgStart := 0x10, prgLen := 0x8000, chrStart := 0x8010, chrLen := 0x2000,
    headerByte := 0x00, mirrorDecode := .ines, allocOk := true, vram := .held }

/-- Configuration B: four PRG banks, CHR-RAM, Vertical. -/
def confB : Params :=
  { image := [(0x4010, 0x10), (0xC010, 0x30), (0x1000C, 0x3C)],
    imageLen := 0x10010, prgStart := 0x10, prgLen := 0x10000, chrStart := 0x10010, chrLen := 0,
    headerByte := 0x01, mirrorDecode := .ines, allocOk := true, vram := .held }

/-- No instance; the VRAM bytes the tests read hold 0x00. -/
def bare : State :=
  { State.reset.discard with vram := [(0x000, 0x00), (0x010, 0x00), (0x400, 0x00), (0x410, 0x00), (0x6FF, 0x00)] }

/-- Right after a successful `init` with configuration A. -/
def sA : State := bare.runInit confA

/-- Right after a successful `init` with configuration B. -/
def sB : State := bare.runInit confB

/-- Configuration A with a bank selected. -/
def sA' (b : Byte) : State := { sA with bankSelect := b }

/-- Configuration A, halted as after CSW-07. -/
def halted : State := (sA' 0x02).raise { code := .bankRange, addr := 0x8000, data := 0x02 }

/-- The next state of an outcome, if it is one. -/
def after : Out → Option State
  | .next t => some t
  | .fault _ => none
  | .refused _ => none

/-- The fault an outcome stops with, if it does. -/
def stop : Out → Option Fault
  | .next _ => none
  | .fault f => some f
  | .refused _ => none

/-! ## Well-formedness: an address at each edge of each range (R84), and one past it -/

theorem test_wf_cpu_rd_prg_switch : (Instr.cpuRdPrgSwitch 0x8000).wf = true ∧ (Instr.cpuRdPrgSwitch 0xBFFF).wf = true ∧
    (Instr.cpuRdPrgSwitch 0x7FFF).wf = false ∧ (Instr.cpuRdPrgSwitch 0xC000).wf = false := by decide

theorem test_wf_cpu_rd_prg_fixed : (Instr.cpuRdPrgFixed 0xC000).wf = true ∧ (Instr.cpuRdPrgFixed 0xFFFF).wf = true ∧
    (Instr.cpuRdPrgFixed 0xBFFF).wf = false := by decide

theorem test_wf_cpu_unmapped : (Instr.cpuRdUnmapped 0x7FFF).wf = true ∧ (Instr.cpuRdUnmapped 0x8000).wf = false ∧
    (Instr.cpuWrUnmapped 0x7FFF 0x55).wf = true ∧ (Instr.cpuWrUnmapped 0x8000 0x55).wf = false := by decide

theorem test_wf_cpu_wr_banksel : (Instr.cpuWrBanksel 0x8000 0x01).wf = true ∧ (Instr.cpuWrBanksel 0xFFFF 0x01).wf = true ∧
    (Instr.cpuWrBanksel 0x7FFF 0x01).wf = false := by decide

theorem test_wf_ppu_pattern : (Instr.ppuRdPattern 0x1FFF).wf = true ∧ (Instr.ppuRdPattern 0x2000).wf = false ∧
    (Instr.ppuWrPattern 0x1FFF 0xAB).wf = true ∧ (Instr.ppuWrPattern 0x2000 0xAB).wf = false := by decide

theorem test_wf_ppu_rd_nt : (Instr.ppuRdNt 0x2000).wf = true ∧ (Instr.ppuRdNt 0x2FFF).wf = true ∧
    (Instr.ppuRdNt 0x1FFF).wf = false ∧ (Instr.ppuRdNt 0x3000).wf = false := by decide

theorem test_wf_ppu_wr_nt : (Instr.ppuWrNt 0x2000 0).wf = true ∧ (Instr.ppuWrNt 0x2FFF 0).wf = true ∧
    (Instr.ppuWrNt 0x1FFF 0).wf = false ∧ (Instr.ppuWrNt 0x3000 0).wf = false := by decide

theorem test_wf_ppu_3f : (Instr.ppuRdUnmapped3F 0x3F00).wf = true ∧ (Instr.ppuRdUnmapped3F 0x3EFF).wf = false ∧
    (Instr.ppuRdUnmapped3F 0x4000).wf = false ∧ (Instr.ppuWrUnmapped3F 0x3FFF 0).wf = true ∧
    (Instr.ppuWrUnmapped3F 0x3EFF 0).wf = false ∧ (Instr.ppuWrUnmapped3F 0x4000 0).wf = false := by decide

theorem test_wf_ppu_nt_mirror : (Instr.ppuRdNtMirror 0x3000).wf = true ∧ (Instr.ppuRdNtMirror 0x2FFF).wf = false ∧
    (Instr.ppuRdNtMirror 0x3F00).wf = false ∧ (Instr.ppuWrNtMirror 0x3EFF 0).wf = true ∧
    (Instr.ppuWrNtMirror 0x2FFF 0).wf = false ∧ (Instr.ppuWrNtMirror 0x3F00 0).wf = false := by decide

theorem test_wf_ppu_unmapped : (Instr.ppuRdUnmapped 0x4000).wf = true ∧ (Instr.ppuRdUnmapped 0x3FFF).wf = false ∧
    (Instr.ppuWrUnmapped 0xFFFF 0).wf = true ∧ (Instr.ppuWrUnmapped 0x3FFF 0).wf = false := by decide

/-! ## Decoding: words written out bit by bit from R81, as P, W, A[15:0], D[7:0] -/

theorem test_decode_cpu_rd_prg_switch : decode 0b0_0_1011111111111111_00000000 = .cpuRdPrgSwitch 0xBFFF := by decide
theorem test_decode_cpu_rd_prg_fixed : decode 0b0_0_1100000000000001_00000000 = .cpuRdPrgFixed 0xC001 := by decide
theorem test_decode_cpu_rd_unmapped : decode 0b0_0_0111111111111111_00000000 = .cpuRdUnmapped 0x7FFF := by decide
theorem test_decode_cpu_wr_banksel : decode 0b0_1_1100000100100011_00000010 = .cpuWrBanksel 0xC123 0x02 := by decide
theorem test_decode_cpu_wr_unmapped : decode 0b0_1_0110000000000000_01010101 = .cpuWrUnmapped 0x6000 0x55 := by decide
theorem test_decode_ppu_rd_pattern : decode 0b1_0_0001111111111111_00000000 = .ppuRdPattern 0x1FFF := by decide
theorem test_decode_ppu_wr_pattern : decode 0b1_1_0000000100100011_10101011 = .ppuWrPattern 0x0123 0xAB := by decide
theorem test_decode_ppu_rd_nt : decode 0b1_0_0010111111111111_00000000 = .ppuRdNt 0x2FFF := by decide
theorem test_decode_ppu_wr_nt : decode 0b1_1_0010110000010000_00111100 = .ppuWrNt 0x2C10 0x3C := by decide
theorem test_decode_ppu_rd_3f : decode 0b1_0_0011111100000000_00000000 = .ppuRdUnmapped3F 0x3F00 := by decide
theorem test_decode_ppu_wr_3f : decode 0b1_1_0011111111111111_00001111 = .ppuWrUnmapped3F 0x3FFF 0x0F := by decide
theorem test_decode_ppu_rd_nt_mirror : decode 0b1_0_0011111011111111_00000000 = .ppuRdNtMirror 0x3EFF := by decide
theorem test_decode_ppu_wr_nt_mirror : decode 0b1_1_0011010000000000_10011001 = .ppuWrNtMirror 0x3400 0x99 := by decide
theorem test_decode_ppu_rd_unmapped : decode 0b1_0_0100000000000000_00000000 = .ppuRdUnmapped 0x4000 := by decide
theorem test_decode_ppu_wr_unmapped : decode 0b1_1_1111111111111111_00000000 = .ppuWrUnmapped 0xFFFF 0x00 := by decide

/-- R82: the `D` of a read is ignored. -/
theorem test_decode_read_ignores_data : decode 0b1_0_0000000000000000_11111111 = .ppuRdPattern 0x0000 := by decide

/-- The table's numbering: word `0x320005A` of R90, given with 32 bits; a 27th bit makes no transaction word. -/
theorem test_decode_table_word : decodeTableWord 32 0x320005A = some (.ppuWrNt 0x2000 0x5A) ∧
    decodeTableWord 32 0x4000000 = none := by decide

/-! ## One step per operation; the vector is named beside each -/

/-- CSW-05. -/
theorem test_switchable_read : responseOf (exec (.cpuRdPrgSwitch 0x8005) (sA' 0x01)) = some (.readData .cpu 0x15) := by
  decide

/-- CSW-09: one past the last bank, although the image goes on in CHR-ROM; the latch and Halted of R175. -/
theorem test_switchable_fault : (after (exec (.cpuRdPrgSwitch 0xBFFF) (sA' 0x02))).bind State.faultOutput =
      some (0x10, 0xBFFF, 0x02) ∧
    (after (exec (.cpuRdPrgSwitch 0xBFFF) (sA' 0x02))).map (fun t => (t.life, t.bankSelect)) =
      some (.halted, 0x02) := by decide

/-- CFX-08: the bank selected is out of range. -/
theorem test_fixed_read : responseOf (exec (.cpuRdPrgFixed 0xFFFC) (sA' 0xFF)) = some (.readData .cpu 0x1C) := by decide

/-- CFX-10. -/
theorem test_fixed_read_four_banks : responseOf (exec (.cpuRdPrgFixed 0xC000) sB) = some (.readData .cpu 0x30) := by
  decide

/-- CUM-05. -/
theorem test_cpu_unmapped_read : (after (exec (.cpuRdUnmapped 0x7FFF) sA)).map (fun t => (t.response, t.diag)) =
    some (.readData .cpu 0x00, [.cpuReadUnmapped 0x7FFF]) := by decide

/-- CWB-03. -/
theorem test_bank_select_write : (after (exec (.cpuWrBanksel 0xC123 0x02) sA)).map
    (fun t => (t.response, t.bankSelect, t.fault, t.diag)) = some (.done, 0x02, none, []) := by decide

/-- CWU-02. -/
theorem test_cpu_unmapped_write : (after (exec (.cpuWrUnmapped 0x6000 0x55) (sA' 0x01))).map
    (fun t => (t.response, t.bankSelect, t.diag)) = some (.done, 0x01, [.cpuWriteUnmapped 0x6000 0x55]) := by decide

/-- PPT-03: CHR-ROM. -/
theorem test_pattern_read_rom : responseOf (exec (.ppuRdPattern 0x1FFF) sA) = some (.readData .ppu 0xFF) := by decide

/-- PPT-08: CHR-RAM, the neighbour of a byte that was written. -/
theorem test_pattern_read_ram : responseOf (exec (.ppuRdPattern 0x0124) { sB with chrRam := [(0x123, 0xAB)] }) =
    some (.readData .ppu 0x00) := by decide

/-- PPT-04, its write. -/
theorem test_pattern_write_rom : (after (exec (.ppuWrPattern 0x0010 0xFF) sA)).map
    (fun t => (t.response, t.chrRam, t.diag)) = some (.done, [], [.chrRomWrite 0x0010 0xFF]) := by decide

/-- P2, `ppu_write $0040, #$00` after `#$3C`: the byte reads 0x00 and its neighbour stays. -/
theorem test_pattern_write_ram : (after (exec (.ppuWrPattern 0x0040 0x00)
      { sB with chrRam := [(0x40, 0x3C), (0x41, 0x7E)] })).map (fun t => (t.response, t.chrRam)) =
    some (.done, [(0x41, 0x7E)]) := by decide

/-- PNR-01, its read. -/
theorem test_nametable_read_horizontal : responseOf (exec (.ppuRdNt 0x2400) { sA with vram := [(0x000, 0x99)] }) =
    some (.readData .ppu 0x99) := by decide

/-- PNR-11, its read. -/
theorem test_nametable_read_vertical : responseOf (exec (.ppuRdNt 0x2C00) { sB with vram := [(0x400, 0x99)] }) =
    some (.readData .ppu 0x99) := by decide

/-- PNR-12, its write: VRAM[$410]. -/
theorem test_nametable_write : (after (exec (.ppuWrNt 0x2C10 0x99) sB)).map
    (fun t => (t.response, t.readVram 0x410, t.readVram 0x010)) = some (.done, 0x99, 0x00) := by decide

/-- PNT-13: Horizontal, $3800 is offset $400. -/
theorem test_mirror_read : responseOf (exec (.ppuRdNtMirror 0x3800) { sA with vram := [(0x000, 0x11), (0x400, 0x22)] }) =
    some (.readData .ppu 0x22) := by decide

/-- PNR-06, its write: Horizontal, $3400 is offset $000. -/
theorem test_mirror_write : (after (exec (.ppuWrNtMirror 0x3400 0x99) sA)).map
    (fun t => (t.readVram 0x000, t.readVram 0x400)) = some (0x99, 0x00) := by decide

/-- PNT-08, PNT-09, PNT-15, PNT-19, PNT-21, PNT-30: offsets of the multiplexer. -/
theorem test_multiplexer : ntOffset 0x2C00 .horizontal = 0x400 ∧ ntOffset 0x2FFF .horizontal = 0x7FF ∧
    ntOffset (mirrorDown 0x3EFF) .horizontal = 0x6FF ∧ ntOffset 0x2400 .vertical = 0x400 ∧
    ntOffset 0x2800 .vertical = 0x000 ∧ ntOffset (mirrorDown 0x3EFF) .vertical = 0x6FF := by decide

/-- PUM-03. -/
theorem test_palette_read : (after (exec (.ppuRdUnmapped3F 0x3FFF) { sB with vram := [(0x000, 0x77)] })).map
    (fun t => (t.response, t.diag)) = some (.readData .ppu 0x00, [.ppuReadUnmapped 0x3FFF]) := by decide

/-- PUM-07. -/
theorem test_palette_write : (after (exec (.ppuWrUnmapped3F 0x3F00 0x33) sB)).map
    (fun t => (t.response, t.chrRam, t.vram, t.diag)) =
    some (.done, [], sB.vram, [.ppuWriteUnmapped 0x3F00 0x33]) := by decide

/-- PUM-05: not folded onto $2000. -/
theorem test_ppu_unmapped_read : (after (exec (.ppuRdUnmapped 0x6000) { sB with vram := [(0x000, 0x77)] })).map
    (fun t => (t.response, t.diag)) = some (.readData .ppu 0x00, [.ppuReadUnmapped 0x6000]) := by decide

/-- PUM-08. -/
theorem test_ppu_unmapped_write : (after (exec (.ppuWrUnmapped 0x4000 0x33) sB)).map
    (fun t => (t.response, t.chrRam, t.vram, t.diag)) =
    some (.done, [], sB.vram, [.ppuWriteUnmapped 0x4000 0x33]) := by decide

/-! ## Lifecycle -/

/-- INI-03, INI-05, INI-06, INI-07. -/
theorem test_init_geometry : [{ confA with prgLen := 0x6000 }, { confA with chrLen := 0x3000 },
      { confA with imageLen := 0x8000 }, { confA with imageLen := 0x9000 }].map
      (fun p => ((bare.runInit p).life, (bare.runInit p).response)) =
    List.replicate 4 (.absent, .initFailed { code := .geometry, addr := 0, data := 0 }) := by decide

/-- INI-08, INI-11, INI-12. -/
theorem test_init_accepts : [{ confA with chrLen := 0, chrStart := 0xFFFFFF, imageLen := 0x8010 },
      { confA with headerByte := 0x03 }, { confA with headerByte := 0xF0 }].map
      (fun p => ((bare.runInit p).life, (bare.runInit p).mirrorMode)) =
    [(.running, .horizontal), (.running, .vertical), (.running, .horizontal)] := by decide

/-- INI-14, INI-15, INI-16, INI-17. -/
theorem test_init_order : [{ confA with headerByte := 0x09 }, { confA with allocOk := false },
      { confA with prgLen := 0, headerByte := 0x08 }, { confA with headerByte := 0x08, allocOk := false }].map
      (fun p => (bare.runInit p).response) =
    [.initFailed { code := .mirrorConfig, addr := 0, data := 0x09 },
     .initFailed { code := .resource, addr := 0, data := 0 },
     .initFailed { code := .geometry, addr := 0, data := 0 },
     .initFailed { code := .mirrorConfig, addr := 0, data := 0x08 }] := by decide

/-- STOP-01, STOP-02, STOP-05. -/
theorem test_stuck : stop (exec (.cpuRdPrgFixed 0xC000) halted) = some .haltedInstance ∧
    stop (exec (.ppuRdNt 0x2000) halted) = some .haltedInstance ∧
    stop (exec (.cpuRdPrgSwitch 0x8000) bare) = some .noInstance := by decide

/-- STOP-03. -/
theorem test_unload : (after (execUnload halted)).map (fun t => (t.life, t.vram)) = some (.absent, halted.vram) := by
  decide

/-- STOP-06, its second request: nothing of the old CHR-RAM is left. -/
theorem test_reinit : (after (execInit confB ({ sB with chrRam := [(0x41, 0x7E)] } : State).discard)).map
    (fun t => (t.life, t.readChr 0x41)) = some (.running, 0x00) := by decide

/-- R8, R188: a VRAM handed over by `init` is taken as it is, in place of the one held; the cell past its end is none. -/
theorem test_init_other_vram : (after (execInit { confA with vram := .other [(0x400, 0x77), (0x800, 0x11)] } bare)).map
    (fun t => (t.life, t.vram)) = some (.running, [(0x400, 0x77)]) := by decide

/-! ## The step from reset -/

/-- R34: `bank_select` 0, so a switchable read answers from bank 0 of the reset image, whose bytes are all 0x00
(log entry 3). -/
theorem test_step_runs_placed_word : responseOf (step (State.reset.withFetchWord 32 0x0800000)) =
    some (.readData .cpu 0x00) := by decide

/-- The bank-select word of R90 as the first transaction after reset. -/
theorem test_step_bank_select : (after (step (State.reset.withFetchWord 32 0x1FFFF07))).map
    (fun t => (t.bankSelect, t.requests)) = some (0x07, []) := by decide

/-- The reset state is what the host's interface names. -/
theorem test_core_reset : core.reset = State.reset := rfl

/-! ## Witnesses: for each statement with hypotheses, values that meet them together, at the edges of each clause -/

/-- DecodeEncodeRoundTrip. -/
theorem witness_round_trip : (Instr.ppuWrNtMirror 0x3EFF 0xFF).wf = true := by decide

/-- IgnoredBitsDoNotMatter: the least and the greatest address. -/
theorem witness_ignored_bits : 0x8000 ≤ (0x8000 : Addr).toNat ∧ 0x8000 ≤ (0xFFFF : Addr).toNat := by decide

/-- EveryWordCompletesInRunning, at a word that faults. -/
theorem witness_every_word_completes : (sA' 0x02).life = .running ∧ (sA' 0x02).cfg.valid = true ∧
    decode 0x0800000 = .cpuRdPrgSwitch 0x8000 := by decide

/-- SwitchableWindowReadsSelectedBank, the read: the last bank, the first address. -/
theorem witness_switchable_last_bank : (sA' 0x01).life = .running ∧ (sA' 0x01).cfg.valid = true ∧
    0x8000 ≤ (0x8000 : Addr).toNat ∧ (0x8000 : Addr).toNat ≤ 0xBFFF ∧
    (sA' 0x01).bankSelect.toNat < (sA' 0x01).cfg.prgLen / 0x4000 := by decide

/-- SwitchableWindowReadsSelectedBank, the fault: one past the last bank, the last address. -/
theorem witness_switchable_past_end : (sA' 0x02).life = .running ∧ (sA' 0x02).cfg.valid = true ∧
    0x8000 ≤ (0xBFFF : Addr).toNat ∧ (0xBFFF : Addr).toNat ≤ 0xBFFF ∧
    (sA' 0x02).cfg.prgLen / 0x4000 ≤ (sA' 0x02).bankSelect.toNat := by decide

/-- BoundCheckIsBankCount. -/
theorem witness_bound_check : sA.cfg.valid = true ∧ 0x8000 ≤ (0xBFFF : Addr).toNat ∧ (0xBFFF : Addr).toNat ≤ 0xBFFF := by
  decide

/-- FixedWindowReadsLastBank: both edges. -/
theorem witness_fixed_window : sA.life = .running ∧ sA.cfg.valid = true ∧ 0xC000 ≤ (0xC000 : Addr).toNat ∧
    0xC000 ≤ (0xFFFF : Addr).toNat := by decide

/-- CpuUnmappedReadAnswersZero, CpuUnmappedWriteIsDiscarded: both edges. -/
theorem witness_cpu_unmapped : sA.life = .running ∧ (0x0000 : Addr).toNat ≤ 0x7FFF ∧ (0x7FFF : Addr).toNat ≤ 0x7FFF := by
  decide

/-- BankSelectWriteStoresValue: both edges. -/
theorem witness_bank_select_write : sA.life = .running ∧ 0x8000 ≤ (0x8000 : Addr).toNat ∧
    0x8000 ≤ (0xFFFF : Addr).toNat := by decide

/-- BankWriteSeenByNextRead: the greatest bank the premise allows. -/
theorem witness_bank_write_then_read : sA.life = .running ∧ sA.cfg.valid = true ∧ 0x8000 ≤ (0xFFFF : Addr).toNat ∧
    0x8000 ≤ (0xBFFF : Addr).toNat ∧ (0xBFFF : Addr).toNat ≤ 0xBFFF ∧
    ((0x01 : Byte).toNat + 1) * 0x4000 ≤ sA.cfg.prgLen := by decide

/-- PrgOffsetFitsTwentyTwoBits. -/
theorem witness_prg_offset : (0xBFFF : Addr).toNat ≤ 0xBFFF := by decide

/-- PatternReadResolves, PatternWriteResolves, ChrRomIsImmutable: CHR-ROM, the last address. -/
theorem witness_pattern_rom : sA.life = .running ∧ sA.cfg.valid = true ∧ (0x1FFF : Addr).toNat ≤ 0x1FFF ∧
    0 < sA.cfg.chrLen := by decide

/-- PatternReadResolves, PatternWriteResolves, ChrRamWriteThenRead: CHR-RAM, the first and last address. -/
theorem witness_pattern_ram : sB.life = .running ∧ sB.cfg.valid = true ∧ (0x0000 : Addr).toNat ≤ 0x1FFF ∧
    (0x1FFF : Addr).toNat ≤ 0x1FFF ∧ sB.cfg.chrLen = 0 := by decide

/-- MirroringMultiplexerIsBitSelect, NametablesFoldByMode, NametableReadAnswersVram, NametableWriteStoresOneByte:
both edges. -/
theorem witness_nametable : sA.life = .running ∧ sB.life = .running ∧ 0x2000 ≤ (0x2000 : Addr).toNat ∧
    (0x2000 : Addr).toNat ≤ 0x2FFF ∧ 0x2000 ≤ (0x2FFF : Addr).toNat ∧ (0x2FFF : Addr).toNat ≤ 0x2FFF := by decide

/-- MirrorReadAnswersNametable, MirrorWriteStoresOneByte: both edges, both modes. -/
theorem witness_mirror : sA.life = .running ∧ sA.mirrorMode = .horizontal ∧ sB.life = .running ∧
    sB.mirrorMode = .vertical ∧ 0x3000 ≤ (0x3000 : Addr).toNat ∧ (0x3000 : Addr).toNat ≤ 0x3EFF ∧
    0x3000 ≤ (0x3EFF : Addr).toNat ∧ (0x3EFF : Addr).toNat ≤ 0x3EFF := by decide

/-- NametableWriteThenRead: S6, the folded address in each mode. -/
theorem witness_nametable_folds :
    ((0x2000 : Addr).toNat % 0x400 = (0x2400 : Addr).toNat % 0x400 ∧
      (sA.mirrorMode = .horizontal ∧ (0x2000 : Addr).getLsbD 11 = (0x2400 : Addr).getLsbD 11)) ∧
    ((0x2000 : Addr).toNat % 0x400 = (0x2800 : Addr).toNat % 0x400 ∧
      (sB.mirrorMode = .vertical ∧ (0x2000 : Addr).getLsbD 10 = (0x2800 : Addr).getLsbD 10)) := by decide

/-- NametableWriteThenRead: PNR-02, an address that does not fold onto the one written. -/
theorem witness_nametable_apart : ¬ ((0x2000 : Addr).toNat % 0x400 = (0x2800 : Addr).toNat % 0x400 ∧
      (sA.mirrorMode = .horizontal ∧ (0x2000 : Addr).getLsbD 11 = (0x2800 : Addr).getLsbD 11 ∨
        sA.mirrorMode = .vertical ∧ (0x2000 : Addr).getLsbD 10 = (0x2800 : Addr).getLsbD 10)) := by decide

/-- PaletteRangeReadAnswersZero, PaletteRangeWriteIsDiscarded: both edges. -/
theorem witness_palette : sB.life = .running ∧ 0x3F00 ≤ (0x3F00 : Addr).toNat ∧ (0x3F00 : Addr).toNat ≤ 0x3FFF ∧
    0x3F00 ≤ (0x3FFF : Addr).toNat ∧ (0x3FFF : Addr).toNat ≤ 0x3FFF := by decide

/-- PpuUnmappedReadAnswersZero, PpuUnmappedWriteIsDiscarded: both edges. -/
theorem witness_ppu_unmapped : sB.life = .running ∧ 0x4000 ≤ (0x4000 : Addr).toNat ∧ 0x4000 ≤ (0xFFFF : Addr).toNat := by
  decide

/-- RegisterFrameOfEveryOperation, NoOperationReadsTheTrace, OnlySwitchableReadSeesBankSelect, an operation under
every clause: it writes no `bank_select`, no latch. -/
theorem witness_frame_unmapped : exec (.cpuWrUnmapped 0x6000 0x55) sA =
    .next { sA with diag := [.cpuWriteUnmapped 0x6000 0x55], response := .done } := by rfl

/-- MemoryFrameOfEveryOperation: an operation that stores to CHR-RAM, and another index. -/
theorem witness_frame_chr : (after (exec (.ppuWrPattern 0x1FFF 0x5C) sB)).isSome = true ∧
    chrStore (.ppuWrPattern 0x1FFF 0x5C) sB = some 0x1FFF ∧ chrStore (.ppuWrPattern 0x1FFF 0x5C) sB ≠ some 0x1FFE ∧
    chrStore (.ppuWrPattern 0x1FFF 0x5C) sA = none := by decide

/-- MemoryFrameOfEveryOperation: an operation that stores to VRAM through the mirror, and another offset. -/
theorem witness_frame_vram : (after (exec (.ppuWrNtMirror 0x3EFF 0x11) sA)).isSome = true ∧
    vramStore (.ppuWrNtMirror 0x3EFF 0x11) sA = some 0x6FF ∧ vramStore (.ppuWrNtMirror 0x3EFF 0x11) sA ≠ some 0x6FE ∧
    vramStore (.ppuWrNtMirror 0x3EFF 0x11) sB = some 0x6FF := by decide

/-- DiagnosticTraceGrowsByTable: an operation that reports, and one that does not. -/
theorem witness_trace : (after (exec (.ppuRdUnmapped 0xFFFF) sB)).isSome = true ∧
    eventOf (.ppuRdUnmapped 0xFFFF) sB = some (.ppuReadUnmapped 0xFFFF) ∧
    (after (exec (.cpuWrBanksel 0xFFFF 0x07) sB)).isSome = true ∧ eventOf (.cpuWrBanksel 0xFFFF 0x07) sB = none := by
  decide

/-- ReadsChangeNothingAndRepeat. -/
theorem witness_read_repeats : (Instr.cpuRdPrgSwitch 0xBFFF).isWrite = false ∧
    (after (exec (.cpuRdPrgSwitch 0xBFFF) (sA' 0x01))).map State.life = some .running := by decide

/-- PortsDoNotInterfere: a CPU write before a PPU read, and a PPU write before a CPU read. -/
theorem witness_ports : (Instr.cpuWrBanksel 0x8000 0x03).onCpuPort ≠ (Instr.ppuRdPattern 0x0041).onCpuPort ∧
    (after (exec (.cpuWrBanksel 0x8000 0x03) sB)).map State.life = some .running ∧
    (Instr.ppuWrNt 0x2000 0x5A).onCpuPort ≠ (Instr.cpuRdPrgSwitch 0x8000).onCpuPort ∧
    (after (exec (.ppuWrNt 0x2000 0x5A) sB)).map State.life = some .running := by decide

/-- OnlySwitchableReadSeesBankSelect. -/
theorem witness_other_than_switchable : ∀ a, Instr.cpuRdPrgFixed 0xC000 ≠ .cpuRdPrgSwitch a := nofun

/-- OnlyOutOfRangeSwitchableReadFaults, FaultEntryChangesNothingElse: an operation that faults. -/
theorem witness_fault : (Instr.cpuRdPrgSwitch 0x8000).wf = true ∧ (sA' 0x02).life = .running ∧
    (sA' 0x02).cfg.valid = true ∧
    (after (exec (.cpuRdPrgSwitch 0x8000) (sA' 0x02))).map State.life = some .halted := by decide

/-- FaultEntryChangesNothingElse, the whole next state: CSW-07. -/
theorem witness_fault_entry : exec (.cpuRdPrgSwitch 0x8000) (sA' 0x02) = .next halted := by rfl

/-- StoppedStatesHaveNoStep, UnloadDiscardsTheInstance: the states it speaks of. -/
theorem witness_stopped : halted.life = .halted ∧ halted.life ≠ .absent ∧ bare.life = .absent := by decide

/-- LifeChangesOnlyByLifecycle: one request for each way `life` changes, and one that keeps it. -/
theorem witness_life : (after (serve (.init confA) bare)).map State.life = some .running ∧
    (after (serve .unload halted)).map State.life = some .absent ∧
    (after (serve (.transaction 0x0800000) (sA' 0x02))).map State.life = some .halted ∧
    (after (serve .consoleReset halted)).map State.life = some .halted := by decide

/-- SuccessfulInitSetsResetValues, the VRAM held. -/
theorem witness_init : bare.life = .absent ∧ geometryConditions confA ∧
    readMirror confA.mirrorDecode confA.headerByte = some .horizontal ∧ confA.allocOk = true ∧
    confA.vram = .held := by decide

/-- SuccessfulInitSetsResetValues, another VRAM, its last byte listed. -/
theorem witness_init_other : bare.life = .absent ∧ geometryConditions { confB with vram := .other [(0x7FF, 0x77)] } ∧
    readMirror confB.mirrorDecode confB.headerByte = some .vertical ∧ confB.allocOk = true ∧
    Memory.lookup [(0x7FF, 0x77)] (0x7FF : BitVec 11).toNat = some 0x77 := by decide

/-- InitTakesTheImageByteForByte: the last index. -/
theorem witness_image_index : 0xA00F < confA.imageLen := by decide

/-- FailedInitReportsFirstFailedCheck: parameters for each of its three clauses. -/
theorem witness_failed_init : bare.life = .absent ∧ ¬ geometryConditions { confA with imageLen := 0xA00F } ∧
    geometryConditions { confA with headerByte := 0x08 } ∧ readMirror confA.mirrorDecode 0x08 = none ∧
    geometryConditions { confA with allocOk := false } ∧ readMirror confA.mirrorDecode confA.headerByte ≠ none := by
  decide

/-- DefaultMirrorDecode: a header byte for each clause. -/
theorem witness_header : (0x09 : Byte).getLsbD 3 = true ∧ (0xF0 : Byte).getLsbD 3 = false ∧
    (0xF0 : Byte).getLsbD 0 = false ∧ (0x03 : Byte).getLsbD 3 = false ∧ (0x03 : Byte).getLsbD 0 = true := by decide

/-- NothingSurvivesReplacement: two instances that differ, one of them halted. -/
theorem witness_replacement : halted.life ≠ .absent ∧ sB.life ≠ .absent ∧ halted.vram = sB.vram ∧
    halted.requests = sB.requests ∧ halted.scheduled = sB.scheduled ∧ halted ≠ sB := by decide

/-- ResetIsTheStateAfterInit. -/
theorem witness_absent : bare.life = .absent := by decide

/-- StepServesTheNextRequest, StepTakesExactlyOneRequest with a request placed. -/
theorem witness_placed : (sA.withFetchWord 32 0x1FFFF07).requests = [.transaction 0x1FFFF07] ∧
    (after (step (sA.withFetchWord 32 0x1FFFF07))).isSome = true := by decide

/-- StepFollowsTheFreeSchedule. -/
theorem witness_none_placed : State.reset.requests = [] := by decide

/-- A read of an image byte completes where the index is inside the image. -/
theorem returnImage_completes (s : State) (q : Port) (i : Nat) (hi : i < s.cfg.imageLen) :
    ∃ t, s.returnImage q i = .next t :=
  ⟨_, State.returnImage_of_some _ (Cartridge.readImage_of_lt hi)⟩

/-- In configuration B with bank 0 every operation completes, whatever its address. -/
theorem sB_completes (i : Instr) (s : State) (hl : s.life = .running) (hb : s.bankSelect = 0)
    (hc : s.cfg.imageLen = 0x10010 ∧ s.cfg.prgStart = 0x10 ∧ s.cfg.prgLen = 0x10000 ∧ s.cfg.chrLen = 0) :
    ∃ t, exec i s = .next t := by
  obtain ⟨hi, hs, hp, h0⟩ := hc
  have run : ∀ k : Out, (∃ t, k = .next t) → ∃ t, s.whenRunning k = .next t := fun k h => by
    rwa [State.whenRunning_running hl]
  cases i with
  | cpuRdPrgSwitch a =>
    refine run _ ?_
    have hz : (0 : Byte).toNat = 0 := rfl
    rw [if_neg (by rw [hp, hb, prgSwitchOffset, hz]; omega)]
    exact returnImage_completes s .cpu _ (by rw [hi, hs, hb, prgSwitchOffset, hz]; omega)
  | cpuRdPrgFixed a =>
    exact run _ (returnImage_completes s .cpu _ (by rw [hi, hs, hp, prgFixedOffset, Config.bankSize]; omega))
  | ppuRdPattern a => exact run _ (by rw [if_neg (by omega)]; exact ⟨_, rfl⟩)
  | ppuWrPattern a v => exact run _ (by rw [if_neg (by omega)]; exact ⟨_, rfl⟩)
  | cpuRdUnmapped a => exact run _ ⟨_, rfl⟩
  | cpuWrBanksel a v => exact run _ ⟨_, rfl⟩
  | cpuWrUnmapped a v => exact run _ ⟨_, rfl⟩
  | ppuRdNt a => exact run _ ⟨_, rfl⟩
  | ppuWrNt a v => exact run _ ⟨_, rfl⟩
  | ppuRdUnmapped3F a => exact run _ ⟨_, rfl⟩
  | ppuWrUnmapped3F a v => exact run _ ⟨_, rfl⟩
  | ppuRdNtMirror a => exact run _ ⟨_, rfl⟩
  | ppuWrNtMirror a v => exact run _ ⟨_, rfl⟩
  | ppuRdUnmapped a => exact run _ ⟨_, rfl⟩
  | ppuWrUnmapped a v => exact run _ ⟨_, rfl⟩

/-- StepTakesExactlyOneRequest with none placed: whatever the free request is, some state has a next state. -/
theorem witness_free_step : ∃ s t, s.requests = [] ∧ step s = .next t := by
  have run (s : State) (hs : s.requests = []) (h : ∃ t, serve (Config.hostSchedule s.scheduled)
      { s with scheduled := s.scheduled + 1 } = .next t) : ∃ s t, s.requests = [] ∧ step s = .next t := by
    obtain ⟨t, ht⟩ := h
    exact ⟨s, t, hs, by simpa only [step, State.takeRequest, hs] using ht⟩
  cases hr : Config.hostSchedule 0 with
  | transaction w => exact run sB rfl (by rw [show sB.scheduled = 0 from rfl, hr]; exact sB_completes _ _ rfl rfl (by decide))
  | init p => exact run bare rfl (by rw [show bare.scheduled = 0 from rfl, hr]; exact ⟨_, rfl⟩)
  | unload => exact run sB rfl (by rw [show sB.scheduled = 0 from rfl, hr]; exact ⟨_, rfl⟩)
  | outsideVramWrite o v => exact run sB rfl (by rw [show sB.scheduled = 0 from rfl, hr]; exact ⟨_, rfl⟩)
  | consoleReset => exact run sB rfl (by rw [show sB.scheduled = 0 from rfl, hr]; exact ⟨_, rfl⟩)

/-- StepKeepsMemoriesCanonical: memories with entries, and a step that removes one. -/
theorem witness_canonical : ({ sB with chrRam := [(0x40, 0x3C)] } : State).MemoriesCanonical ∧
    (after (step (({ sB with chrRam := [(0x40, 0x3C)] } : State).withFetchWord 32 0x3004000))).map State.chrRam =
      some [] := by decide

/-- StepKeepsLifecycleConsistent, StepKeepsChrRamUnused: a step that faults, with CHR-ROM. -/
theorem witness_consistent : (sA' 0x02).LifecycleConsistent ∧ (sA' 0x02).ChrRamUnused ∧ 0 < (sA' 0x02).cfg.chrLen ∧
    (after (step ((sA' 0x02).withFetchWord 32 0x0800000))).map State.life = some .halted := by decide

/-- StepKeepsFaultExplained: a halted state. -/
theorem witness_explained : halted.LifecycleConsistent ∧ halted.FaultExplained :=
  ⟨by decide, fun _ => ⟨0x8000, by decide, by decide, by decide, by decide⟩⟩

/-- StepKeepsFaultExplained: steps from the halted state, and into it. -/
theorem witness_explained_step : (after (serve .unload halted)).isSome = true ∧
    (after (step (({ halted with requests := [.consoleReset] } : State)))).map State.life = some .halted := by decide

/-- CanonicalMemoriesReadAlikeAreEqual: a canonical state with entries in every memory. -/
theorem witness_read_alike : ({ sB with chrRam := [(0x41, 0x7E)] } : State).MemoriesCanonical ∧ sB.cfg.image ≠ [] ∧
    sB.vram ≠ [] := by decide

end Sys2Proof.Tests
end

section
/-! SUPPORT. Canonical memories are determined by what they read, and the memory of a list of cells reads what the
cells list (log entry 5). -/

namespace Sys2Proof.Machine

/-- An index that a canonical memory lists is not below its lowest index. -/
theorem Memory.le_of_lookup_eq_some {lo size : Nat} {blank : Option Byte} {m : Memory} {k : Nat} {v : Byte}
    (hm : Memory.wfFrom lo size blank m = true) (hk : m.lookup k = some v) : lo ≤ k := by
  by_contra hlt
  rw [Memory.lookup_below m hm k (by omega)] at hk
  cases hk

@[simp] theorem Memory.lookup_cons_self (a : Nat) (v : Byte) (m : Memory) :
    Memory.lookup ((a, v) :: m) a = some v := by
  rw [Memory.lookup_cons, if_pos rfl]

/-- Canonical memories with the same entries are the same list: the entry at the lowest index comes first in both. -/
theorem Memory.eq_of_lookup_eq {lo size : Nat} {blank : Option Byte} {m m' : Memory}
    (hm : Memory.wfFrom lo size blank m = true) (hm' : Memory.wfFrom lo size blank m' = true)
    (h : ∀ k, m.lookup k = m'.lookup k) : m = m' := by
  induction m generalizing lo m' with
  | nil =>
    cases m' with
    | nil => rfl
    | cons c' _ => simpa using (h c'.1).trans (Memory.lookup_cons_self c'.1 c'.2 _)
  | cons c rest ih =>
    obtain ⟨a, v⟩ := c
    cases m' with
    | nil => simpa using h a
    | cons c' rest' =>
      obtain ⟨a', v'⟩ := c'
      obtain ⟨-, ha, hv, hrest⟩ := (Memory.wfFrom_cons ..).1 hm
      obtain ⟨-, ha', hv', hrest'⟩ := (Memory.wfFrom_cons ..).1 hm'
      have hle : a ≤ a' := Memory.le_of_lookup_eq_some
        ((Memory.wfFrom_cons ..).2 ⟨le_rfl, ha, hv, hrest⟩) ((h a').trans (Memory.lookup_cons_self ..))
      have hge : a' ≤ a := Memory.le_of_lookup_eq_some
        ((Memory.wfFrom_cons ..).2 ⟨le_rfl, ha', hv', hrest'⟩) ((h a).symm.trans (Memory.lookup_cons_self ..))
      obtain rfl : a = a' := by omega
      obtain rfl : v = v' := by simpa using h a
      have hlookup : ∀ k, Memory.lookup rest k = Memory.lookup rest' k := by
        intro k
        by_cases hk : k = a
        · rw [Memory.lookup_below rest hrest k (by omega), Memory.lookup_below rest' hrest' k (by omega)]
        · simpa [Memory.lookup_cons, hk] using h k
      rw [ih hrest hrest' hlookup]

/-- The byte that a canonical memory reads at an index determines its entry there: none for the blank byte. -/
theorem Memory.lookup_eq_of_wf {size : Nat} {b : Byte} {m : Memory} (hm : Memory.wf size (some b) m = true)
    (k : Nat) : m.lookup k = if (m.lookup k).getD b = b then none else some ((m.lookup k).getD b) := by
  cases hk : m.lookup k with
  | none => simp
  | some v =>
    have hv : v ≠ b := fun e => Memory.lookup_ne_blank m hm k v hk (congrArg some e.symm)
    simp [hv]

/-- Canonical memories in which an unlisted index holds `b` are equal when they read alike at every index inside. -/
theorem Memory.eq_of_getD_eq {size : Nat} {b : Byte} {m m' : Memory} (hm : Memory.wf size (some b) m = true)
    (hm' : Memory.wf size (some b) m' = true)
    (h : ∀ k < size, (m.lookup k).getD b = (m'.lookup k).getD b) : m = m' := by
  refine Memory.eq_of_lookup_eq hm hm' fun k => ?_
  by_cases hk : k < size
  · rw [Memory.lookup_eq_of_wf hm, Memory.lookup_eq_of_wf hm', h k hk]
  · rw [Memory.lookup_beyond m hm k (by omega), Memory.lookup_beyond m' hm' k (by omega)]

/-- Inside the memory, the memory of a list of cells reads the first cell at the index, or the blank byte. -/
theorem Memory.getD_ofCells (b : Byte) (size : Nat) (cells : List Host.Cell) {k : Nat} (hk : k < size) :
    ((Memory.ofCells (some b) size cells).lookup k).getD b = (Memory.lookup cells k).getD b := by
  induction cells with
  | nil => rfl
  | cons c rest ih =>
    obtain ⟨a, v⟩ := c
    simp only [Memory.ofCells, Memory.lookup_cons]
    split
    · rw [Memory.getD_write, ih]
      split <;> rfl
    · rw [ih, if_neg (by omega)]

/-- The cells that list a byte sequence from the index `k` on. -/
def cellsFrom (k : Nat) : List Byte → List Host.Cell
  | [] => []
  | v :: rest => (k, v) :: cellsFrom (k + 1) rest

theorem lookup_cellsFrom (bytes : List Byte) (k n : Nat) :
    Memory.lookup (cellsFrom k bytes) (k + n) = bytes[n]? := by
  induction bytes generalizing k n with
  | nil => rfl
  | cons v rest ih =>
    rw [cellsFrom, Memory.lookup_cons]
    cases n with
    | zero => simp
    | succ n => rw [if_neg (by omega), List.getElem?_cons_succ, ← ih (k + 1) n, Nat.add_right_comm, Nat.add_assoc]

end Sys2Proof.Machine
end

section
/-! SUPPORT. What each operation does to the canonical form of the three memories: an access of CHR-RAM or VRAM is
inside it (00_scope.md R12), and init brings what it is given into the form. -/

namespace Sys2Proof.Machine

theorem State.writeChr_memoriesCanonical {s : State} (hs : s.MemoriesCanonical) (i : BitVec 13) (v : Byte) :
    (s.writeChr i v).MemoriesCanonical := by
  obtain ⟨himage, hchr, hvram⟩ := hs
  exact ⟨himage, Memory.wf_write _ _ _ i.isLt hchr, hvram⟩

theorem State.writeVram_memoriesCanonical {s : State} (hs : s.MemoriesCanonical) (o : BitVec 11) (v : Byte) :
    (s.writeVram o v).MemoriesCanonical := by
  obtain ⟨himage, hchr, hvram⟩ := hs
  exact ⟨himage, hchr, Memory.wf_write _ _ _ o.isLt hvram⟩

theorem State.discard_memoriesCanonical {s : State} (hs : s.MemoriesCanonical) (r : Response) :
    ({ s.discard with response := r } : State).MemoriesCanonical :=
  have ⟨_, _, hvram⟩ := hs
  ⟨rfl, rfl, hvram⟩

theorem State.initialise_memoriesCanonical {s : State} (hs : s.MemoriesCanonical) (p : Params) (m : MirrorMode) :
    (s.initialise p m).MemoriesCanonical :=
  have ⟨_, _, hvram⟩ := hs
  ⟨Memory.wf_ofCells .., rfl, wf_handedVram _ _ hvram⟩

theorem State.runInit_memoriesCanonical {s : State} (hs : s.MemoriesCanonical) (p : Params) :
    (s.runInit p).MemoriesCanonical := by
  obtain ⟨m, -, -, -, heq⟩ | ⟨r, heq⟩ := s.runInit_cases p
  · exact heq ▸ State.initialise_memoriesCanonical hs p m
  · exact heq ▸ State.discard_memoriesCanonical hs (.initFailed r)

theorem State.takeRequest_memoriesCanonical {s : State} (hs : s.MemoriesCanonical) :
    s.takeRequest.2.MemoriesCanonical := by
  obtain ⟨r, rest, -, heq⟩ | ⟨-, heq⟩ := s.takeRequest_cases
  · exact heq ▸ hs
  · exact heq ▸ hs

/-- A transaction writes at most one byte, of CHR-RAM or of VRAM, inside that memory. -/
theorem exec_memoriesCanonical {i : Instr} {s t : State} (hs : s.MemoriesCanonical) (h : exec i s = .next t) :
    t.MemoriesCanonical := by
  obtain ⟨-, hcases⟩ := exec_cases h
  rcases hcases with ⟨_, _, _, rfl⟩ | ⟨_, _, _, rfl⟩ | ⟨_, _, _, rfl⟩ | ⟨_, _, rfl⟩ | ⟨_, _, rfl⟩ | ⟨_, _, _, rfl⟩ |
    ⟨_, _, _, rfl⟩ | ⟨_, _, _, rfl⟩ | ⟨a, v, _, ⟨_, rfl⟩ | ⟨_, rfl⟩⟩ | ⟨a, b, v, _, rfl⟩
  rotate_left 9 -- the two stores come last, the nine shapes that touch no memory before them
  · exact State.writeChr_memoriesCanonical hs (chrIndex a) v
  · exact State.writeVram_memoriesCanonical hs (ntOffset b s.mirrorMode) v
  all_goals exact hs

theorem serve_memoriesCanonical {r : Request} {s t : State} (hs : s.MemoriesCanonical)
    (h : serve r s = .next t) : t.MemoriesCanonical := by
  obtain ⟨w, -, hexec⟩ | ⟨p, -, -, rfl⟩ | ⟨-, -, rfl⟩ | ⟨o, v, -, rfl⟩ | ⟨-, rfl⟩ := serve_cases h
  · exact exec_memoriesCanonical hs hexec
  · exact State.runInit_memoriesCanonical hs p
  · exact State.discard_memoriesCanonical hs .unloaded
  · exact State.writeVram_memoriesCanonical hs o v
  · exact hs

end Sys2Proof.Machine
end

section
/-! The obligations of 00_scope.md: the canonical form of the memories. -/

namespace Sys2Proof.Proofs

open Sys2Proof.Machine

/-- Settles O54: taking a request touches no memory, and serving it keeps the three of them canonical. -/
theorem stepKeepsMemoriesCanonical : Obligations.StepKeepsMemoriesCanonical :=
  fun _ _ hs h => serve_memoriesCanonical (State.takeRequest_memoriesCanonical hs) h

/-- Settles O59: a read at every index inside a canonical memory determines the list. -/
theorem canonicalMemoriesReadAlikeAreEqual : Obligations.CanonicalMemoriesReadAlikeAreEqual := by
  unfold Obligations.CanonicalMemoriesReadAlikeAreEqual
  rintro s t ⟨hsImage, hsChr, -⟩ ⟨htImage, htChr, -⟩
  constructor
  · intro hread
    refine Memory.eq_of_getD_eq hsChr htChr fun k hk => ?_
    have htoNat : (BitVec.ofNat 13 k).toNat = k := Nat.mod_eq_of_lt hk
    have := hread (BitVec.ofNat 13 k)
    rwa [State.readChr, State.readChr, htoNat] at this
  · intro hlen hread
    rw [← hlen] at htImage
    refine Memory.eq_of_getD_eq hsImage htImage fun k hk => ?_
    have := hread k
    rw [Cartridge.readImage_of_lt hk, Cartridge.readImage_of_lt (hlen ▸ hk)] at this
    exact Option.some.inj this

/-- Settles O60: the cells are the canonical memory of the byte sequence, which init leaves reading the same bytes. -/
theorem everyImageIsExpressible : Obligations.EveryImageIsExpressible := by
  unfold Obligations.EveryImageIsExpressible
  intro bytes
  have hwf := Memory.wf_ofCells romBlank bytes.length (cellsFrom 0 bytes)
  refine ⟨Memory.ofCells romBlank bytes.length (cellsFrom 0 bytes), hwf, fun n => ?_⟩
  have hbytes : Memory.lookup (cellsFrom 0 bytes) n = bytes[n]? := by
    simpa using lookup_cellsFrom bytes 0 n
  rw [List.getD_eq_getElem?_getD, ← hbytes]
  by_cases hn : n < bytes.length
  · exact (Memory.getD_ofCells 0x00 _ _ hn).trans (Memory.getD_ofCells 0x00 _ _ hn)
  · rw [Memory.lookup_beyond _ (Memory.wf_ofCells ..) n (by omega), hbytes, List.getElem?_eq_none (by omega)]

end Sys2Proof.Proofs
end

section
/-! SUPPORT. What a transaction leaves unchanged, read off its ten shapes once (10_state.md, 60_exceptions.md R175). -/

namespace Sys2Proof.Machine

/-- The frame of a transaction `i` from `s` to `t`: the fields that no operation writes, and for `bank_select`, the
latch with `life`, and CHR-RAM, the one operation that may write them (R21, R23, R26, R27, R30). -/
structure TransactionFrame (i : Instr) (s t : State) : Prop where
  mirrorMode : t.mirrorMode = s.mirrorMode
  cfg : t.cfg = s.cfg
  requests : t.requests = s.requests
  scheduled : t.scheduled = s.scheduled
  bankSelect : t.bankSelect = s.bankSelect ∨ ∃ a v, i = .cpuWrBanksel a v
  /-- `life` and the latch stay, or a switchable read faults: it halts and latches a record. -/
  lifeFault : (t.life = s.life ∧ t.fault = s.fault) ∨
    (∃ a, i = .cpuRdPrgSwitch a) ∧ t.life = .halted ∧ t.fault ≠ none
  /-- Only a configuration without CHR-ROM stores to CHR-RAM. -/
  chrRam : t.chrRam = s.chrRam ∨ s.cfg.chrLen = 0

theorem exec_frame {i : Instr} {s t : State} (h : exec i s = .next t) : TransactionFrame i s t := by
  obtain ⟨-, hcases⟩ := exec_cases h
  rcases hcases with ⟨a, hi, _, rfl⟩ | ⟨_, _, _, rfl⟩ | ⟨_, _, _, rfl⟩ | ⟨_, _, rfl⟩ | ⟨_, _, rfl⟩ | ⟨a, v, hi, rfl⟩ |
    ⟨_, _, _, rfl⟩ | ⟨_, _, _, rfl⟩ | ⟨_, _, _, ⟨_, rfl⟩ | ⟨hlen, rfl⟩⟩ | ⟨_, _, _, _, rfl⟩
  pick_goal 10 -- the store to CHR-RAM
  · exact ⟨rfl, rfl, rfl, rfl, .inl rfl, .inl ⟨rfl, rfl⟩, .inr hlen⟩
  pick_goal 6 -- the bank-select write
  · exact ⟨rfl, rfl, rfl, rfl, .inr ⟨a, v, hi⟩, .inl ⟨rfl, rfl⟩, .inl rfl⟩
  · -- the fault
    exact ⟨rfl, rfl, rfl, rfl, .inl rfl, .inr ⟨⟨a, hi⟩, rfl, Option.some_ne_none _⟩, .inl rfl⟩
  all_goals exact ⟨rfl, rfl, rfl, rfl, .inl rfl, .inl ⟨rfl, rfl⟩, .inl rfl⟩

end Sys2Proof.Machine
end

section
/-! SUPPORT. With another diagnostic trace an operation answers the same and appends the same event (10_state.md
R29): an equation between outcomes, so the stops are the same too. -/

namespace Sys2Proof.Machine

/-- The state with another diagnostic trace. -/
def State.withTrace (s : State) (d : List DiagEvent) : State := { s with diag := d }

/-- The outcome with its next state, if it answers one, changed by `f`. -/
def mapNext (f : State → State) : Out → Out
  | .next t => .next (f t)
  | .fault r => .fault r
  | .refused r => .refused r

/-- The `life` check passes the change of a trace through, to either outcome. -/
theorem State.whenRunning_withTrace (s : State) {d d' : List DiagEvent} {k k' : Out}
    (h : k' = mapNext (·.withTrace d') k) :
    (s.withTrace d).whenRunning k' = mapNext (·.withTrace d') (s.whenRunning k) := by
  cases hlife : s.life with
  | running =>
    rw [State.whenRunning_running hlife, State.whenRunning_running (s := s.withTrace d) hlife, h]
  | halted =>
    rw [State.whenRunning_halted hlife, State.whenRunning_halted (s := s.withTrace d) hlife]; rfl
  | absent =>
    rw [State.whenRunning_absent hlife, State.whenRunning_absent (s := s.withTrace d) hlife]; rfl

/-- An operation that reports nothing leaves whatever trace it is given. -/
theorem State.whenRunning_withTrace_silent (s : State) {d : List DiagEvent} {k k' : Out}
    (h : k' = mapNext (·.withTrace d) k) : (s.withTrace d).whenRunning k' =
      mapNext (·.withTrace (d ++ (none : Option DiagEvent).toList)) (s.whenRunning k) := by
  rw [Option.toList_none, List.append_nil]
  exact s.whenRunning_withTrace h

theorem State.returnImage_withTrace (s : State) (d : List DiagEvent) (p : Port) (n : Nat) :
    (s.withTrace d).returnImage p n = mapNext (·.withTrace d) (s.returnImage p n) := by
  have hcfg : (s.withTrace d).cfg = s.cfg := rfl
  unfold State.returnImage
  rw [hcfg]
  cases s.cfg.readImage n <;> rfl

/-- Every operation, with another trace: the same outcome, its own event after that trace. -/
theorem exec_withTrace (i : Instr) (s : State) (d : List DiagEvent) :
    exec i (s.withTrace d) = mapNext (·.withTrace (d ++ (eventOf i s).toList)) (exec i s) := by
  cases i with
  | cpuRdPrgSwitch a =>
    refine s.whenRunning_withTrace_silent ?_
    by_cases h : s.cfg.prgLen ≤ prgSwitchOffset a s.bankSelect
    · exact (if_pos h).trans (by rw [if_pos h]; rfl)
    · exact (if_neg h).trans (by rw [if_neg h]; exact s.returnImage_withTrace d _ _)
  | cpuRdPrgFixed a => exact s.whenRunning_withTrace_silent (s.returnImage_withTrace d _ _)
  | ppuRdPattern a =>
    refine s.whenRunning_withTrace_silent ?_
    by_cases h : 0 < s.cfg.chrLen
    · exact (if_pos h).trans (by rw [if_pos h]; exact s.returnImage_withTrace d _ _)
    · exact (if_neg h).trans (by rw [if_neg h]; rfl)
  | ppuWrPattern a v =>
    by_cases h : 0 < s.cfg.chrLen
    · rw [eventOf, if_pos h]
      exact s.whenRunning_withTrace ((if_pos h).trans (by rw [if_pos h]; rfl))
    · rw [eventOf, if_neg h]
      exact s.whenRunning_withTrace_silent ((if_neg h).trans (by rw [if_neg h]; rfl))
  | cpuWrBanksel a v => exact s.whenRunning_withTrace_silent rfl
  | ppuRdNt a => exact s.whenRunning_withTrace_silent rfl
  | ppuWrNt a v => exact s.whenRunning_withTrace_silent rfl
  | ppuRdNtMirror a => exact s.whenRunning_withTrace_silent rfl
  | ppuWrNtMirror a v => exact s.whenRunning_withTrace_silent rfl
  -- the six operations that report, each one event
  | _ => exact s.whenRunning_withTrace rfl

end Sys2Proof.Machine
end

section
/-! SUPPORT. `init` by its checks, and the lifecycle invariant through each request (10_state.md R35,
70_reset_and_hazards.md R202, R205). -/

namespace Sys2Proof.Machine

theorem execInit_of_absent {s : State} (p : Params) (h : s.life = .absent) : execInit p s = .next (s.runInit p) := by
  rw [execInit, h]

/-- `init` that passes its three checks initialises (R201). -/
theorem State.runInit_of_checks (s : State) {p : Params} {m : MirrorMode} (hgeometry : geometryOkOf p = true)
    (hmirror : readMirror p.mirrorDecode p.headerByte = some m) (halloc : p.allocOk = true) :
    s.runInit p = s.initialise p m := by
  rw [State.runInit, if_pos hgeometry, hmirror]
  exact if_pos halloc

theorem State.takeRequest_lifecycleConsistent {s : State} (hs : s.LifecycleConsistent) :
    s.takeRequest.2.LifecycleConsistent := by
  obtain ⟨r, rest, -, heq⟩ | ⟨-, heq⟩ := s.takeRequest_cases
  · exact heq ▸ hs
  · exact heq ▸ hs

/-- The discarded block holds only blanks, whatever was there before (log entry 6). -/
theorem State.discard_lifecycleConsistent (s : State) (r : Response) :
    ({ s.discard with response := r } : State).LifecycleConsistent :=
  ⟨fun h => absurd rfl h, ⟨fun _ => nofun, fun _ => rfl⟩, fun _ => ⟨rfl, rfl, rfl, rfl, rfl⟩⟩

/-- A block just initialised is consistent because check 1 of `init` is R35's condition on the geometry. -/
theorem State.initialise_lifecycleConsistent (s : State) {p : Params} (m : MirrorMode)
    (hgeometry : geometryOkOf p = true) : (s.initialise p m).LifecycleConsistent :=
  ⟨fun _ => hgeometry, ⟨fun _ => nofun, fun _ => rfl⟩, nofun⟩

theorem State.runInit_lifecycleConsistent (s : State) (p : Params) : (s.runInit p).LifecycleConsistent := by
  obtain ⟨m, hgeometry, -, -, heq⟩ | ⟨r, heq⟩ := s.runInit_cases p
  · exact heq ▸ s.initialise_lifecycleConsistent m hgeometry
  · exact heq ▸ s.discard_lifecycleConsistent (.initFailed r)

/-- A transaction keeps the configuration record, and sets the latch exactly when it halts. -/
theorem exec_lifecycleConsistent {i : Instr} {s t : State} (hs : s.LifecycleConsistent)
    (h : exec i s = .next t) : t.LifecycleConsistent := by
  obtain ⟨hvalid, hlatch, -⟩ := hs
  obtain ⟨hrunning, -⟩ := exec_cases h
  have hframe := exec_frame h
  have hvalid' : t.cfg.valid = true := hframe.cfg ▸ hvalid (by simp [hrunning])
  obtain ⟨hlife, hfault⟩ | ⟨-, hlife, hfault⟩ := hframe.lifeFault
  · exact ⟨fun _ => hvalid', by rw [hlife, hfault]; exact hlatch, by simp [hlife, hrunning]⟩
  · exact ⟨fun _ => hvalid', by simp [hlife, hfault], by simp [hlife]⟩

theorem serve_lifecycleConsistent {r : Request} {s t : State} (hs : s.LifecycleConsistent)
    (h : serve r s = .next t) : t.LifecycleConsistent := by
  obtain ⟨w, -, hexec⟩ | ⟨p, -, -, rfl⟩ | ⟨-, -, rfl⟩ | ⟨o, v, -, rfl⟩ | ⟨-, rfl⟩ := serve_cases h
  · exact exec_lifecycleConsistent hs hexec
  · exact s.runInit_lifecycleConsistent p
  · exact s.discard_lifecycleConsistent .unloaded
  · exact hs
  · exact hs

theorem State.takeRequest_chrRamUnused {s : State} (hs : s.ChrRamUnused) : s.takeRequest.2.ChrRamUnused := by
  obtain ⟨r, rest, -, heq⟩ | ⟨-, heq⟩ := s.takeRequest_cases
  · exact heq ▸ hs
  · exact heq ▸ hs

/-- Whether it succeeds or fails, `init` leaves CHR-RAM all 0x00. -/
theorem State.runInit_chrRam (s : State) (p : Params) : (s.runInit p).chrRam = [] := by
  obtain ⟨m, -, -, -, heq⟩ | ⟨r, heq⟩ := s.runInit_cases p
  · rw [heq, State.initialise_chrRam]
  · rw [heq, State.rejectInit_chrRam]

theorem exec_chrRamUnused {i : Instr} {s t : State} (hs : s.ChrRamUnused) (h : exec i s = .next t) :
    t.ChrRamUnused := by
  have hframe := exec_frame h
  intro hlen
  rw [hframe.cfg] at hlen
  obtain hchr | hzero := hframe.chrRam
  · exact hchr.trans (hs hlen)
  · omega

theorem serve_chrRamUnused {r : Request} {s t : State} (hs : s.ChrRamUnused) (h : serve r s = .next t) :
    t.ChrRamUnused := by
  obtain ⟨w, -, hexec⟩ | ⟨p, -, -, rfl⟩ | ⟨-, -, rfl⟩ | ⟨o, v, -, rfl⟩ | ⟨-, rfl⟩ := serve_cases h
  · exact exec_chrRamUnused hs hexec
  · exact fun _ => s.runInit_chrRam p
  · exact fun _ => s.discard_chrRam
  · exact hs
  · exact hs

end Sys2Proof.Machine
end

section
/-! The obligations of 10_state.md: the registers, the trace, the lifecycle and the state after reset. -/

namespace Sys2Proof.Proofs

open Sys2Proof.Machine

/-- Settles O55: taking a request touches no register, and serving it keeps R35's invariants. -/
theorem stepKeepsLifecycleConsistent : Obligations.StepKeepsLifecycleConsistent :=
  fun _ _ hs h => serve_lifecycleConsistent (State.takeRequest_lifecycleConsistent hs) h

/-- Settles O30: each clause is one of the frame, the exceptions excluded by the premises. -/
theorem registerFrameOfEveryOperation : Obligations.RegisterFrameOfEveryOperation := by
  unfold Obligations.RegisterFrameOfEveryOperation
  intro i s t h
  have hframe := exec_frame h
  refine ⟨fun hi => ?_, fun hi => ?_, hframe.mirrorMode, hframe.cfg, hframe.requests, hframe.scheduled⟩
  · obtain hbank | ⟨a, v, heq⟩ := hframe.bankSelect
    · exact hbank
    · exact absurd heq (hi a v)
  · obtain hkept | ⟨⟨a, heq⟩, -⟩ := hframe.lifeFault
    · exact hkept
    · exact absurd heq (hi a)

/-- Settles O33: the outcome with another trace is the same outcome with that trace continued. -/
theorem noOperationReadsTheTrace : Obligations.NoOperationReadsTheTrace := by
  unfold Obligations.NoOperationReadsTheTrace
  intro i s t d h
  have htrace := exec_withTrace i s d
  rw [h] at htrace
  exact htrace

/-- Settles O36: in the answer of every operation but the switchable read `bank_select` does not occur. -/
theorem onlySwitchableReadSeesBankSelect : Obligations.OnlySwitchableReadSeesBankSelect := by
  unfold Obligations.OnlySwitchableReadSeesBankSelect
  intro i s b hi
  rw [responseOf_exec, responseOf_exec]
  cases i with
  | cpuRdPrgSwitch a => exact absurd rfl (hi a)
  | _ => rfl

/-- Settles O40, by the kinds of request. -/
theorem lifeChangesOnlyByLifecycle : Obligations.LifeChangesOnlyByLifecycle := by
  unfold Obligations.LifeChangesOnlyByLifecycle
  intro r s t h
  obtain ⟨w, hr, hexec⟩ | ⟨p, hr, habsent, rfl⟩ | ⟨hr, hpresent, rfl⟩ | ⟨o, v, -, rfl⟩ | ⟨-, rfl⟩ := serve_cases h
  · obtain ⟨hrunning, -⟩ := exec_cases hexec
    obtain ⟨hlife, -⟩ | ⟨⟨a, hi⟩, hhalted, -⟩ := (exec_frame hexec).lifeFault
    · exact .inl hlife
    · exact .inr (.inr (.inr ⟨hrunning, hhalted, w, a, hr, hi⟩))
  · obtain ⟨m, -, -, -, heq⟩ | ⟨e, heq⟩ := s.runInit_cases p
    · exact .inr (.inl ⟨habsent, by rw [heq, State.initialise_life], p, hr⟩)
    · exact .inl (by rw [heq, State.rejectInit_life, habsent])
  · exact .inr (.inr (.inl ⟨hpresent, rfl, hr⟩))
  · exact .inl rfl
  · exact .inl rfl

/-- Settles O42: the canonical form of the host's list reads, inside the image, as the list does. -/
theorem initTakesTheImageByteForByte : Obligations.InitTakesTheImageByteForByte :=
  fun _ _ hn => (Cartridge.readImage_of_lt hn).trans (congrArg some (Memory.getD_ofCells 0x00 _ _ hn))

/-- Settles O56: the one store to CHR-RAM is in a configuration without CHR-ROM, and `init` and `unload` clear it. -/
theorem stepKeepsChrRamUnused : Obligations.StepKeepsChrRamUnused :=
  fun _ _ _ hs h => serve_chrRamUnused (State.takeRequest_chrRamUnused hs) h

/-- Settles O49, by evaluation of the reset state. -/
theorem resetHoldsTheSpecValues : Obligations.ResetHoldsTheSpecValues :=
  ⟨rfl, rfl, fun _ => rfl, rfl, rfl, fun _ => rfl⟩

/-- Settles O50: the reset parameters pass the three checks of `init`, with the mode Horizontal. -/
theorem resetIsTheStateAfterInit : Obligations.ResetIsTheStateAfterInit := by
  unfold Obligations.ResetIsTheStateAfterInit
  intro s habsent
  have hinit : s.runInit Config.resetParams = s.initialise Config.resetParams .horizontal :=
    s.runInit_of_checks (by decide) (by decide) rfl
  rw [execInit_of_absent _ habsent, hinit]
  rfl

/-- Settles O58: the reset state holds no bytes, its geometry is valid, and it is not halted. -/
theorem resetMeetsTheInvariants : Obligations.ResetMeetsTheInvariants :=
  ⟨⟨rfl, rfl, rfl⟩, ⟨fun _ => by decide, by decide, nofun⟩, fun _ => rfl, nofun⟩

end Sys2Proof.Proofs
end

section
/-! SUPPORT. Which request a step serves, and that serving it places and takes no other (20_memory.md R57, R61; log
entry 1). -/

namespace Sys2Proof.Machine

theorem step_of_placed {s : State} {r : Request} {rest : List Request} (h : s.requests = r :: rest) :
    step s = serve r { s with requests := rest } := by
  rw [step, State.takeRequest, h]

theorem step_of_none_placed {s : State} (h : s.requests = []) :
    step s = serve (Config.hostSchedule s.scheduled) { s with scheduled := s.scheduled + 1 } := by
  rw [step, State.takeRequest, h]

theorem State.runInit_schedule (s : State) (p : Params) :
    (s.runInit p).requests = s.requests ∧ (s.runInit p).scheduled = s.scheduled := by
  obtain ⟨m, -, -, -, heq⟩ | ⟨r, heq⟩ := s.runInit_cases p
  · rw [heq]; exact ⟨rfl, rfl⟩
  · rw [heq]; exact ⟨rfl, rfl⟩

/-- Serving a request, of whatever kind, leaves the order of the others as it is. -/
theorem serve_schedule {r : Request} {s t : State} (h : serve r s = .next t) :
    t.requests = s.requests ∧ t.scheduled = s.scheduled := by
  obtain ⟨w, -, hexec⟩ | ⟨p, -, -, rfl⟩ | ⟨-, -, rfl⟩ | ⟨o, v, -, rfl⟩ | ⟨-, rfl⟩ := serve_cases h
  · exact ⟨(exec_frame hexec).requests, (exec_frame hexec).scheduled⟩
  · exact s.runInit_schedule p
  · exact ⟨rfl, rfl⟩
  · exact ⟨rfl, rfl⟩
  · exact ⟨rfl, rfl⟩

end Sys2Proof.Machine
end

section
/-! SUPPORT. The byte a transaction stores, and what a read leaves unchanged (20_memory.md R52, R53, R58, R66). -/

namespace Sys2Proof.Machine

/-- A transaction stores nothing, or the one byte of CHR-RAM or of VRAM that its own form names. -/
theorem exec_stores {i : Instr} {s t : State} (h : exec i s = .next t) :
    (t.chrRam = s.chrRam ∧ t.vram = s.vram) ∨
      (∃ k v, chrStore i s = some k ∧ t = (s.writeChr k v).complete) ∨
      (∃ o v, vramStore i s = some o ∧ t = (s.writeVram o v).complete) := by
  obtain ⟨-, hcases⟩ := exec_cases h
  rcases hcases with ⟨_, _, _, rfl⟩ | ⟨_, _, _, rfl⟩ | ⟨_, _, _, rfl⟩ | ⟨_, _, rfl⟩ | ⟨_, _, rfl⟩ | ⟨_, _, _, rfl⟩ |
    ⟨_, _, _, rfl⟩ | ⟨_, _, _, rfl⟩ | ⟨a, v, rfl, ⟨_, rfl⟩ | ⟨hlen, rfl⟩⟩ | ⟨a, b, v, hi, rfl⟩
  rotate_left 9 -- the two stores come last, the nine shapes that touch no memory before them
  · exact .inr (.inl ⟨chrIndex a, v, if_neg (by omega), rfl⟩)
  · obtain ⟨rfl, rfl⟩ | ⟨rfl, rfl⟩ := hi
    · exact .inr (.inr ⟨_, v, rfl, rfl⟩)
    · exact .inr (.inr ⟨_, v, rfl, rfl⟩)
  all_goals exact .inl ⟨rfl, rfl⟩

/-- A read that leaves the block Running, so that it did not fault, changes the trace and the outputs alone. -/
theorem exec_read_frame {i : Instr} {s t : State} (hread : i.isWrite = false) (h : exec i s = .next t)
    (hrunning : t.life = .running) : t = { s with diag := t.diag, response := t.response } := by
  obtain ⟨-, hcases⟩ := exec_cases h
  rcases hcases with ⟨_, _, _, rfl⟩ | ⟨_, _, _, rfl⟩ | ⟨_, _, _, rfl⟩ | ⟨_, _, rfl⟩ | ⟨_, _, rfl⟩ | ⟨_, _, rfl, _⟩ |
    ⟨_, _, rfl, _⟩ | ⟨_, _, rfl | rfl, _⟩ | ⟨_, _, rfl, _⟩ | ⟨_, _, _, ⟨rfl, _⟩ | ⟨rfl, _⟩, _⟩
  · -- the fault
    cases hrunning
  iterate 4 exact rfl -- the four shapes of a read
  all_goals cases hread -- the writes

/-- What an operation answers depends neither on the trace nor on the last answer (log entry 2). -/
theorem responseOf_exec_outputs (i : Instr) (s : State) (d : List DiagEvent) (r : Response) :
    responseOf (exec i { s with diag := d, response := r }) = responseOf (exec i s) := by
  rw [responseOf_exec, responseOf_exec]
  rfl

end Sys2Proof.Machine
end

section
/-! SUPPORT. A read of the switchable window and of CHR-ROM by the byte of the image it answers, and the writes that
come before it in the source's properties (20_memory.md R60, R65). -/

namespace Sys2Proof.Machine

theorem exec_cpuWrBanksel {s : State} (h : s.life = .running) (a : Addr) (v : Byte) :
    exec (.cpuWrBanksel a v) s = .next (s.setBankSelect v).complete :=
  State.whenRunning_running h _

/-- The switchable read of a bank inside PRG ROM (R100). -/
theorem exec_cpuRdPrgSwitch_of_lt {s : State} {a : Addr} {x : Byte} (h : s.life = .running)
    (hlt : prgSwitchOffset a s.bankSelect < s.cfg.prgLen)
    (hx : s.cfg.readImage (s.cfg.prgStart + prgSwitchOffset a s.bankSelect) = some x) :
    exec (.cpuRdPrgSwitch a) s = .next (s.answer .cpu x) := by
  refine (State.whenRunning_running h _).trans ?_
  rw [if_neg (Nat.not_le.mpr hlt), State.returnImage_of_some _ hx]

/-- Every byte of a bank that ends inside PRG ROM is inside PRG ROM. -/
theorem prgSwitchOffset_lt {a : Addr} {b : Byte} {len : Nat} (ha : a.toNat ≤ 0xBFFF)
    (hlen : (b.toNat + 1) * 0x4000 ≤ len) : prgSwitchOffset a b < len := by
  rw [prgSwitchOffset, Config.bankSize]
  omega

/-- A pattern write over CHR-ROM is only reported (R131). -/
theorem exec_ppuWrPattern_of_rom {s : State} (h : s.life = .running) (hrom : 0 < s.cfg.chrLen) (a : Addr)
    (v : Byte) : exec (.ppuWrPattern a v) s = .next (s.report (.chrRomWrite a v)).complete :=
  (State.whenRunning_running h _).trans (if_pos hrom)

/-- The pattern read over CHR-ROM (R130). -/
theorem exec_ppuRdPattern_of_rom {s : State} {a : Addr} {x : Byte} (h : s.life = .running)
    (hrom : 0 < s.cfg.chrLen) (hx : s.cfg.readImage (s.cfg.chrStart + a.toNat) = some x) :
    exec (.ppuRdPattern a) s = .next (s.answer .ppu x) := by
  refine (State.whenRunning_running h _).trans ?_
  rw [if_pos hrom, State.returnImage_of_some _ hx]

/-- PRG ROM lies inside the image (R35). -/
theorem Cartridge.exists_prgByte {c : Cartridge} (hvalid : c.valid = true) {i : Nat} (hi : i < c.prgLen) :
    ∃ x, c.readImage (c.prgStart + i) = some x := by
  obtain ⟨-, -, -, hprg, -⟩ := (geometryOk_iff ..).mp hvalid
  exact ⟨_, Cartridge.readImage_of_lt (by omega)⟩

/-- CHR-ROM, where there is any, fills the pattern window at least once and lies inside the image (R35). -/
theorem Cartridge.exists_chrByte {c : Cartridge} (hvalid : c.valid = true) (hrom : 0 < c.chrLen) {i : Nat}
    (hi : i < Config.chrRamSize) : ∃ x, c.readImage (c.chrStart + i) = some x := by
  obtain ⟨-, -, hsize, -, hchr⟩ := (geometryOk_iff ..).mp hvalid
  rw [Config.chrRamSize] at hi
  exact ⟨_, Cartridge.readImage_of_lt (by omega)⟩

end Sys2Proof.Machine
end

section
/-! The obligations of 20_memory.md: the order of the requests, the memories and what a read sees of a write. -/

namespace Sys2Proof.Proofs

open Sys2Proof.Machine

/-- Settles O51, by the kinds of request. -/
theorem stepServesTheNextRequest : Obligations.StepServesTheNextRequest := by
  unfold Obligations.StepServesTheNextRequest
  intro s r rest hplaced
  rw [step_of_placed hplaced]
  cases r <;> rfl

/-- Settles O52: with no request placed the request taken is the free one at the counter. -/
theorem stepFollowsTheFreeSchedule : Obligations.StepFollowsTheFreeSchedule :=
  fun _ => step_of_none_placed

/-- Settles O53: taking a request changes the schedule as the statement says, and serving it leaves the schedule. -/
theorem stepTakesExactlyOneRequest : Obligations.StepTakesExactlyOneRequest := by
  unfold Obligations.StepTakesExactlyOneRequest
  intro s t h
  cases hplaced : s.requests with
  | nil =>
    rw [step_of_none_placed hplaced] at h
    obtain ⟨hrequests, hscheduled⟩ := serve_schedule h
    exact ⟨hrequests.trans hplaced, fun hne => absurd rfl hne, fun _ => hscheduled⟩
  | cons r rest =>
    rw [step_of_placed hplaced] at h
    obtain ⟨hrequests, hscheduled⟩ := serve_schedule h
    exact ⟨hrequests, fun _ => hscheduled, nofun⟩

/-- Settles O31: of the byte memories only the byte stored to can change, and the image is in the fixed configuration. -/
theorem memoryFrameOfEveryOperation : Obligations.MemoryFrameOfEveryOperation := by
  unfold Obligations.MemoryFrameOfEveryOperation
  intro i s t h
  have hcfg : ∀ n, t.cfg.readImage n = s.cfg.readImage n := fun n => by rw [(exec_frame h).cfg]
  obtain ⟨hchr, hvram⟩ | ⟨k, v, hstore, rfl⟩ | ⟨o, v, hstore, rfl⟩ := exec_stores h
  · exact ⟨fun k _ => by rw [State.readChr, hchr, State.readChr],
      fun o _ => by rw [State.readVram, hvram, State.readVram], hcfg⟩
  · refine ⟨fun j hj => ?_, fun _ _ => rfl, hcfg⟩
    have hne : j ≠ k := fun heq => hj (heq ▸ hstore)
    exact (s.readChr_writeChr k j v).trans (if_neg hne)
  · refine ⟨fun _ _ => rfl, fun j hj => ?_, hcfg⟩
    have hne : j ≠ o := fun heq => hj (heq ▸ hstore)
    exact (s.readVram_writeVram o j v).trans (if_neg hne)

/-- Settles O34: after the read only the trace and the outputs differ, and no answer depends on those. -/
theorem readsChangeNothingAndRepeat : Obligations.ReadsChangeNothingAndRepeat := by
  unfold Obligations.ReadsChangeNothingAndRepeat
  intro i s t hread h hrunning
  have hframe := exec_read_frame hread h hrunning
  refine ⟨hframe, ?_⟩
  calc responseOf (exec i t)
      = responseOf (exec i { s with diag := t.diag, response := t.response }) := by rw [← hframe]
    _ = responseOf (exec i s) := responseOf_exec_outputs ..
    _ = some t.response := by rw [h, responseOf]

/-- Settles O13: the write leaves the configuration, and the bank it selects ends inside PRG ROM. -/
theorem bankWriteSeenByNextRead : Obligations.BankWriteSeenByNextRead := by
  unfold Obligations.BankWriteSeenByNextRead
  intro s a b v hrunning hvalid _ _ hb hbank
  have hlt : prgSwitchOffset b v < s.cfg.prgLen := prgSwitchOffset_lt hb hbank
  obtain ⟨x, hx⟩ := Cartridge.exists_prgByte hvalid hlt
  refine ⟨_, x, exec_cpuWrBanksel hrunning a v, ?_, exec_cpuRdPrgSwitch_of_lt hrunning hlt hx⟩
  rw [Nat.add_assoc]
  exact hx

/-- Settles O18: the write is only reported, so the read meets the configuration of before. -/
theorem chrRomIsImmutable : Obligations.ChrRomIsImmutable := by
  unfold Obligations.ChrRomIsImmutable
  intro s a b v hrunning hvalid hrom hb
  obtain ⟨x, hx⟩ := Cartridge.exists_chrByte hvalid hrom (Nat.lt_succ_of_le hb)
  exact ⟨_, _, x, exec_ppuWrPattern_of_rom hrunning hrom a v, exec_ppuRdPattern_of_rom hrunning hrom hx, hx, rfl⟩

end Sys2Proof.Proofs
end

section
/-! SUPPORT. The decoder and the encoder by the four fields of the word (30_encoding.md R81, R82, R84), and the last
row of the table as the one that takes what no other row took (R83). -/

namespace Sys2Proof

/-- What a word with the fields `p`, `w`, `a`, `d` decodes to: an operation of that port, direction and address, in
its row's range, that carries `d` if it is a write (R81, R82, R84). -/
structure CarriesFields (i : Instr) (p w : Bool) (a : Addr) (d : Byte) : Prop where
  wf : i.wf = true
  port : i.onCpuPort = !p
  isWrite : i.isWrite = w
  addr : i.addr = a
  val : i.val = bif w then d else 0

/-- The decoded operation carries the fields of its word: every branch of the decoder is one row's range. -/
theorem decode_packWord_carriesFields (p w : Bool) (a : Addr) (d : Byte) :
    CarriesFields (decode (packWord p w a d)) p w a d := by
  have ha := a.isLt
  rw [decode_packWord]
  cases p <;> cases w <;> dsimp only <;> split_ifs <;>
    exact ⟨(Addr.within_iff ..).mpr (by omega), rfl, rfl, rfl, rfl⟩

/-- An operation in its row's range is what the word of its fields decodes to; of a read `D` may be any byte (R82). -/
theorem decode_packWord_of_wf {i : Instr} (h : i.wf = true) (d : Byte) :
    decode (packWord (!i.onCpuPort) i.isWrite i.addr (bif i.isWrite then i.val else d)) = i := by
  cases i
  all_goals
    rw [Instr.wf, Addr.within_iff] at h
    dsimp only [Instr.onCpuPort, Instr.isWrite, Instr.addr, Instr.val, Bool.not_true, Bool.not_false, cond_true]
    rw [decode_packWord]
    split_ifs <;> first | rfl | omega -- the row's own branch, or one that its range excludes

/-- `encode` packs the operation's own fields, with `D = 0` for a read (R81). -/
theorem encode_eq_packWord (i : Instr) :
    encode i = packWord (!i.onCpuPort) i.isWrite i.addr (bif i.isWrite then i.val else 0) := by
  cases i <;> rfl

theorem decode_encode {i : Instr} (h : i.wf = true) : decode (encode i) = i := by
  rw [encode_eq_packWord, decode_packWord_of_wf h]

/-- A word that is the encoding of an operation in its row's range decodes to that operation. -/
theorem decode_and_encode_of_wf {i : Instr} {w : TxnWord} (h : i.wf = true) (hw : encode i = w) :
    decode w = i ∧ encode i = w :=
  ⟨hw ▸ decode_encode h, hw⟩

/-- The data field of a read is ignored (R82). -/
theorem decode_read_ignores_data (p : Bool) (a : Addr) (d d' : Byte) :
    decode (packWord p false a d) = decode (packWord p false a d') := by
  rw [decode_packWord, decode_packWord]
  cases p <;> rfl

/-- A row in front of the table is a test in front of the choice. -/
theorem firstMatch_cons {r : OpcodeRow} {rest : List OpcodeRow} {w : TxnWord} {i : Instr}
    (hrest : ¬ w.hits r.mask r.row = true → firstMatch rest w = some i) :
    firstMatch (r :: rest) w = some (if w.hits r.mask r.row = true then r.build w.addr w.data else i) := by
  rw [firstMatch]
  split_ifs with h
  · rfl
  · exact hrest h

/-- Rows 1 to 5 take every CPU word and row 14 every PPU read that is left, so row 15 takes all else (R83, R84). -/
theorem TxnWord.hits_lastRow {w : TxnWord} (h1 : ¬ w.hits 0x3C00000 0x0800000 = true)
    (h2 : ¬ w.hits 0x3C00000 0x0C00000 = true) (h3 : ¬ w.hits 0x3800000 0x0000000 = true)
    (h4 : ¬ w.hits 0x3800000 0x1800000 = true) (h5 : ¬ w.hits 0x3800000 0x1000000 = true)
    (h14 : ¬ w.hits 0x3000000 0x2000000 = true) : w.hits 0x3000000 0x3000000 = true := by
  rw [w.hits22 _ (by decide)] at h1 h2
  rw [w.hits23 _ (by decide)] at h3 h4 h5
  rw [w.hits24 _ (by decide)] at h14 ⊢
  simp only [BitVec.reduceToNat] at h1 h2 h3 h4 h5 h14 ⊢
  have hlt := w.isLt
  omega

end Sys2Proof
end

section
/-! SUPPORT. In Running every operation in its row's range has a next state: the reads of the image stay inside it,
and a bank past the end is the fault's own next state (30_encoding.md R86, 60_exceptions.md R175, R184). -/

namespace Sys2Proof.Machine

/-- The switchable read of a bank past the end of PRG ROM takes the fault (R101, R175). -/
theorem exec_cpuRdPrgSwitch_of_le {s : State} {a : Addr} (h : s.life = .running)
    (hle : s.cfg.prgLen ≤ prgSwitchOffset a s.bankSelect) :
    exec (.cpuRdPrgSwitch a) s = .next (s.raise { code := .bankRange, addr := a, data := s.bankSelect }) :=
  (State.whenRunning_running h _).trans (if_pos hle)

theorem exec_cpuRdPrgFixed {s : State} {a : Addr} {x : Byte} (h : s.life = .running)
    (hx : s.cfg.readImage (s.cfg.prgStart + prgFixedOffset a s.cfg.prgLen) = some x) :
    exec (.cpuRdPrgFixed a) s = .next (s.answer .cpu x) :=
  (State.whenRunning_running h _).trans (State.returnImage_of_some _ hx)

/-- The fixed window lies inside PRG ROM, which is one bank at least (R35, R102). -/
theorem prgFixedOffset_lt {c : Cartridge} (hvalid : c.valid = true) (a : Addr) :
    prgFixedOffset a c.prgLen < c.prgLen := by
  obtain ⟨hpos, hbanks, -⟩ := (geometryOk_iff ..).mp hvalid
  rw [prgFixedOffset, Config.bankSize]
  omega

/-- The pattern read over CHR-RAM (R130). -/
theorem exec_ppuRdPattern_of_ram {s : State} (h : s.life = .running) (hram : s.cfg.chrLen = 0) (a : Addr) :
    exec (.ppuRdPattern a) s = .next (s.answer .ppu (s.readChr (chrIndex a))) :=
  (State.whenRunning_running h _).trans (if_neg (by omega))

/-- A pattern write over CHR-RAM stores its byte (R131). -/
theorem exec_ppuWrPattern_of_ram {s : State} (h : s.life = .running) (hram : s.cfg.chrLen = 0) (a : Addr)
    (v : Byte) : exec (.ppuWrPattern a v) s = .next (s.writeChr (chrIndex a) v).complete :=
  (State.whenRunning_running h _).trans (if_neg (by omega))

/-- Only the three reads of the image need the geometry, and only the pattern read its row's range. -/
theorem exec_next_of_wf {i : Instr} {s : State} (hwf : i.wf = true) (hrunning : s.life = .running)
    (hvalid : s.cfg.valid = true) : ∃ t, exec i s = .next t := by
  cases i with
  | cpuRdPrgSwitch a =>
    obtain hle | hlt := le_or_gt s.cfg.prgLen (prgSwitchOffset a s.bankSelect)
    · exact ⟨_, exec_cpuRdPrgSwitch_of_le hrunning hle⟩
    · obtain ⟨x, hx⟩ := Cartridge.exists_prgByte hvalid hlt
      exact ⟨_, exec_cpuRdPrgSwitch_of_lt hrunning hlt hx⟩
  | cpuRdPrgFixed a =>
    obtain ⟨x, hx⟩ := Cartridge.exists_prgByte hvalid (prgFixedOffset_lt hvalid a)
    exact ⟨_, exec_cpuRdPrgFixed hrunning hx⟩
  | ppuRdPattern a =>
    obtain hram | hrom := Nat.eq_zero_or_pos s.cfg.chrLen
    · exact ⟨_, exec_ppuRdPattern_of_ram hrunning hram a⟩
    · obtain ⟨-, ha⟩ := (Addr.within_iff ..).mp hwf
      obtain ⟨x, hx⟩ := Cartridge.exists_chrByte hvalid hrom (Nat.lt_succ_of_le ha)
      exact ⟨_, exec_ppuRdPattern_of_rom hrunning hrom hx⟩
  | ppuWrPattern a v =>
    obtain hram | hrom := Nat.eq_zero_or_pos s.cfg.chrLen
    · exact ⟨_, exec_ppuWrPattern_of_ram hrunning hram a v⟩
    · exact ⟨_, exec_ppuWrPattern_of_rom hrunning hrom a v⟩
  | _ => exact ⟨_, State.whenRunning_running hrunning _⟩

end Sys2Proof.Machine
end

section
/-! The obligations of 30_encoding.md: the transaction word, its decoder and its encoder. -/

namespace Sys2Proof.Proofs

open Sys2Proof.Machine

/-- Settles O2: the word packs the operation's fields, and those select its row. -/
theorem decodeEncodeRoundTrip : Obligations.DecodeEncodeRoundTrip :=
  fun _ => decode_encode

/-- Settles O3: every word is the packing of its fields, and the operation carries them. -/
theorem decodedOperationHasItsRowsRange : Obligations.DecodedOperationHasItsRowsRange := by
  unfold Obligations.DecodedOperationHasItsRowsRange
  intro w
  obtain ⟨p, wr, hw⟩ := exists_packWord w
  have hbits : w.toNat / 2 ^ 24 = 2 * p.toNat + wr.toNat := by rw [hw, packWord_bits]
  have hfields := decode_packWord_carriesFields p wr w.addr w.data
  rw [← hw] at hfields
  obtain ⟨hwf, hport, hwrite, haddr, hval⟩ := hfields
  have hwr := Bool.toNat_lt wr
  refine ⟨hwf, ?_, ?_, haddr, fun h => ?_⟩
  · rw [hport, Bool.not_not]
    omega
  · rw [hwrite]
    omega
  · rw [hval, ← hwrite, h, cond_true]

/-- Settles O4: the two choices agree row by row, and a word that no row before takes is taken by the last. -/
theorem decodeIsFirstMatchOfTable : Obligations.DecodeIsFirstMatchOfTable := by
  unfold Obligations.DecodeIsFirstMatchOfTable
  intro w
  unfold decode
  exact firstMatch_cons fun h1 => firstMatch_cons fun h2 => firstMatch_cons fun h3 => firstMatch_cons fun h4 =>
    firstMatch_cons fun h5 => firstMatch_cons fun _ => firstMatch_cons fun _ => firstMatch_cons fun _ =>
    firstMatch_cons fun _ => firstMatch_cons fun _ => firstMatch_cons fun _ => firstMatch_cons fun _ =>
    firstMatch_cons fun _ => firstMatch_cons fun h14 => if_pos (TxnWord.hits_lastRow h1 h2 h3 h4 h5 h14)

/-- Settles O5: a read drops its data field, and the meaning of a bank-select write its address. -/
theorem ignoredBitsDoNotMatter : Obligations.IgnoredBitsDoNotMatter := by
  unfold Obligations.IgnoredBitsDoNotMatter
  refine ⟨decode_read_ignores_data, fun a a' v s ha ha' => ?_⟩
  have hdecode (b : Addr) (hb : 0x8000 ≤ b.toNat) : decode (packWord false true b v) = .cpuWrBanksel b v :=
    decode_packWord_of_wf (i := .cpuWrBanksel b v) ((Addr.within_iff ..).mpr ⟨hb, Nat.le_of_lt_succ b.isLt⟩) 0
  rw [hdecode a ha, hdecode a' ha']
  rfl

/-- Settles O6: a decoded operation is in its row's range, so it has a next state. -/
theorem everyWordCompletesInRunning : Obligations.EveryWordCompletesInRunning := by
  unfold Obligations.EveryWordCompletesInRunning
  intro w s hrunning hvalid
  obtain ⟨hwf, -⟩ := decodedOperationHasItsRowsRange w
  exact exec_next_of_wf hwf hrunning hvalid

/-- Settles O1: each worked operation is in its row's range and encodes to its word, so the word decodes to it. -/
theorem workedWordsDecodeAndEncode : Obligations.WorkedWordsDecodeAndEncode := by
  unfold Obligations.WorkedWordsDecodeAndEncode
  refine ⟨?_, ?_, ?_, ?_, ?_, ?_, ?_, ?_, ?_, ?_, ?_, ?_, ?_, ?_, ?_, ?_⟩
  all_goals exact decode_and_encode_of_wf (by decide) (by decide)

end Sys2Proof.Proofs
end

section
/-! SUPPORT. The CPU port by numbers: the switchable window in whole banks of PRG ROM (40_cpu_port.md R101), and what
the two unmapped operations answer (R103, R105). -/

namespace Sys2Proof.Machine

/-- Valid PRG ROM is a whole number of banks (00_scope.md R9, 10_state.md R35). -/
theorem Cartridge.prgBanks_mul_bankSize {c : Cartridge} (hvalid : c.valid = true) :
    c.prgBanks * Config.bankSize = c.prgLen := by
  obtain ⟨-, hmod, -⟩ := (geometryOk_iff ..).mp hvalid
  exact Nat.div_mul_cancel (Nat.dvd_of_mod_eq_zero hmod)

/-- An address of the window picks one byte of the bank, so it does not decide whether the bank exists. -/
theorem prgLen_le_prgSwitchOffset_iff {c : Cartridge} (hvalid : c.valid = true) {a : Addr} (ha : a.toNat ≤ 0xBFFF)
    (b : Byte) : c.prgLen ≤ prgSwitchOffset a b ↔ c.prgBanks ≤ b.toNat := by
  rw [← Cartridge.prgBanks_mul_bankSize hvalid, prgSwitchOffset, Config.bankSize]
  omega

theorem prgSwitchOffset_le {a : Addr} (ha : a.toNat ≤ 0xBFFF) (b : Byte) : prgSwitchOffset a b ≤ 0x3FFFFF := by
  have hb := b.isLt
  rw [prgSwitchOffset, Config.bankSize]
  omega

theorem exec_cpuRdUnmapped {s : State} (h : s.life = .running) (a : Addr) :
    exec (.cpuRdUnmapped a) s = .next ((s.report (.cpuReadUnmapped a)).answer .cpu 0x00) :=
  State.whenRunning_running h _

theorem exec_cpuWrUnmapped {s : State} (h : s.life = .running) (a : Addr) (v : Byte) :
    exec (.cpuWrUnmapped a v) s = .next (s.report (.cpuWriteUnmapped a v)).complete :=
  State.whenRunning_running h _

end Sys2Proof.Machine
end

section
/-! The obligations of 40_cpu_port.md: the PRG windows, the bank-select write and the unmapped range. -/

namespace Sys2Proof.Proofs

open Sys2Proof.Machine

/-- Settles O7: the bound check of the meaning is the count of the banks, so a bank that exists is read, inside PRG
ROM and so inside the image, and any other bank takes the fault. -/
theorem switchableWindowReadsSelectedBank : Obligations.SwitchableWindowReadsSelectedBank := by
  unfold Obligations.SwitchableWindowReadsSelectedBank
  intro s a d hrunning hvalid hlo hhi
  have hbound := prgLen_le_prgSwitchOffset_iff hvalid hhi s.bankSelect
  refine ⟨decode_packWord_of_wf (i := .cpuRdPrgSwitch a) ((Addr.within_iff ..).mpr ⟨hlo, hhi⟩) d,
    fun hbank => ?_, fun hbank => ?_⟩
  · have hlt : prgSwitchOffset a s.bankSelect < s.cfg.prgLen := by rwa [← Nat.not_le, hbound, Nat.not_le]
    obtain ⟨v, hv⟩ := Cartridge.exists_prgByte hvalid hlt
    exact ⟨v, hv, exec_cpuRdPrgSwitch_of_lt hrunning hlt hv⟩
  · exact exec_cpuRdPrgSwitch_of_le hrunning (hbound.mpr hbank)

/-- Settles O9: the last bank lies inside the image, and the meaning does not read `bank_select`. -/
theorem fixedWindowReadsLastBank : Obligations.FixedWindowReadsLastBank := by
  unfold Obligations.FixedWindowReadsLastBank
  intro s a d hrunning hvalid hlo
  obtain ⟨v, hv⟩ := Cartridge.exists_prgByte hvalid (prgFixedOffset_lt hvalid a)
  refine ⟨decode_packWord_of_wf (i := .cpuRdPrgFixed a)
      ((Addr.within_iff ..).mpr ⟨hlo, Nat.le_of_lt_succ a.isLt⟩) d,
    v, ?_, exec_cpuRdPrgFixed hrunning hv, fun b => ?_⟩
  · rw [Nat.add_assoc]
    exact hv
  · exact exec_cpuRdPrgFixed (s := { s with bankSelect := b }) hrunning hv

/-- Settles O8: PRG_LEN is a whole number of banks and an address of the window stays inside one. -/
theorem boundCheckIsBankCount : Obligations.BoundCheckIsBankCount :=
  fun _ _ b hvalid _ hhi => prgLen_le_prgSwitchOffset_iff hvalid hhi b

/-- Settles O10: the row takes the read, and its meaning reports and answers the sentinel. -/
theorem cpuUnmappedReadAnswersZero : Obligations.CpuUnmappedReadAnswersZero := by
  unfold Obligations.CpuUnmappedReadAnswersZero
  intro s a d hrunning hhi
  exact ⟨decode_packWord_of_wf (i := .cpuRdUnmapped a) ((Addr.within_iff ..).mpr ⟨Nat.zero_le _, hhi⟩) d,
    exec_cpuRdUnmapped hrunning a⟩

/-- Settles O11: the row takes the write at any address of the range, and its meaning ignores the address. -/
theorem bankSelectWriteStoresValue : Obligations.BankSelectWriteStoresValue := by
  unfold Obligations.BankSelectWriteStoresValue
  intro s a v hrunning hlo
  exact ⟨decode_packWord_of_wf (i := .cpuWrBanksel a v)
      ((Addr.within_iff ..).mpr ⟨hlo, Nat.le_of_lt_succ a.isLt⟩) 0,
    exec_cpuWrBanksel hrunning a v⟩

/-- Settles O12: the row takes the write, and its meaning only reports it. -/
theorem cpuUnmappedWriteIsDiscarded : Obligations.CpuUnmappedWriteIsDiscarded := by
  unfold Obligations.CpuUnmappedWriteIsDiscarded
  intro s a v hrunning hhi
  exact ⟨decode_packWord_of_wf (i := .cpuWrUnmapped a v) ((Addr.within_iff ..).mpr ⟨Nat.zero_le _, hhi⟩) 0,
    exec_cpuWrUnmapped hrunning a v⟩

/-- Settles O14: a window address and an eight-bit bank bound the offset; the greatest of both reach the bound. -/
theorem prgOffsetFitsTwentyTwoBits : Obligations.PrgOffsetFitsTwentyTwoBits :=
  ⟨fun _ b ha => prgSwitchOffset_le ha b, rfl⟩

end Sys2Proof.Proofs
end

section
/-! SUPPORT. The mirroring multiplexer as a bit select (41_ppu_port.md R140), and the nametable mirror, which the
subtraction of 0x1000 maps onto the same selected bits (R143). -/

namespace Sys2Proof.Machine

/-- The address bit that the multiplexer puts at offset bit 10 in a mode (R140). -/
def ntBit : MirrorMode → Nat
  | .horizontal => 11
  | .vertical => 10

theorem getLsbD_ntBit_eq_ite (m : MirrorMode) (a : Addr) :
    a.getLsbD (ntBit m) = if m = .vertical then a.getLsbD 10 else a.getLsbD 11 := by
  cases m <;> rfl

theorem getLsbD_eq_iff (a b : Addr) (n : Nat) :
    a.getLsbD n = b.getLsbD n ↔ a.toNat / 2 ^ n % 2 = b.toNat / 2 ^ n % 2 := by
  rw [← getLsbD_toNat, ← getLsbD_toNat]
  cases a.getLsbD n <;> cases b.getLsbD n <;> decide

/-- In $2000–$2FFF the source's formulas are the select of one address bit over the low ten (R140). -/
theorem ntOffset_toNat (m : MirrorMode) {a : Addr} (hlo : 0x2000 ≤ a.toNat) (hhi : a.toNat ≤ 0x2FFF) :
    (ntOffset a m).toNat = (a.getLsbD (ntBit m)).toNat * 0x400 + a.toNat % 0x400 := by
  rw [getLsbD_toNat]
  cases m with
  | horizontal =>
    rw [ntOffset_horizontal_toNat, ntBit]
    split <;> omega
  | vertical =>
    rw [ntOffset_vertical_toNat, ntBit]
    omega

/-- Two logical addresses share a byte of VRAM when they agree in the low ten bits and in the selected one (R140). -/
theorem ntOffset_eq_iff (m : MirrorMode) {a b : Addr} (halo : 0x2000 ≤ a.toNat) (hahi : a.toNat ≤ 0x2FFF)
    (hblo : 0x2000 ≤ b.toNat) (hbhi : b.toNat ≤ 0x2FFF) : ntOffset a m = ntOffset b m ↔
      a.toNat % 0x400 = b.toNat % 0x400 ∧ a.getLsbD (ntBit m) = b.getLsbD (ntBit m) := by
  rw [← BitVec.toNat_inj, ntOffset_toNat m halo hahi, ntOffset_toNat m hblo hbhi, getLsbD_eq_iff, getLsbD_toNat,
    getLsbD_toNat]
  omega

/-- The agreement in the selected bit, written out by mode. -/
theorem getLsbD_ntBit_eq_iff (m : MirrorMode) (a b : Addr) : a.getLsbD (ntBit m) = b.getLsbD (ntBit m) ↔
    m = .horizontal ∧ a.getLsbD 11 = b.getLsbD 11 ∨ m = .vertical ∧ a.getLsbD 10 = b.getLsbD 10 := by
  cases m <;> simp [ntBit]

/-- The nametable mirror folds by the bits of the address itself, as 0x1000 lies above the bits selected (R143). -/
theorem ntOffset_mirrorDown_toNat (m : MirrorMode) {a : Addr} (hlo : 0x3000 ≤ a.toNat) (hhi : a.toNat ≤ 0x3EFF) :
    (ntOffset (mirrorDown a) m).toNat = (a.getLsbD (ntBit m)).toNat * 0x400 + a.toNat % 0x400 := by
  have hdown : (mirrorDown a).toNat = a.toNat - 0x1000 := mirrorDown_toNat (by omega)
  rw [ntOffset_toNat m (by omega) (by omega), getLsbD_toNat, getLsbD_toNat, hdown]
  cases m <;> rw [ntBit] <;> omega

end Sys2Proof.Machine
end

section
/-! SUPPORT. What the PPU-port operations answer in Running (41_ppu_port.md, sections 2 and 3), and the two byte
memories read back after a store. -/

namespace Sys2Proof.Machine

theorem State.readChr_writeChr_same (s : State) (i : BitVec 13) (v : Byte) : (s.writeChr i v).readChr i = v :=
  (s.readChr_writeChr i i v).trans (if_pos rfl)

theorem State.readChr_writeChr_of_ne (s : State) {i j : BitVec 13} (v : Byte) (h : j ≠ i) :
    (s.writeChr i v).readChr j = s.readChr j :=
  (s.readChr_writeChr i j v).trans (if_neg h)

theorem State.readVram_writeVram_same (s : State) (o : BitVec 11) (v : Byte) : (s.writeVram o v).readVram o = v :=
  (s.readVram_writeVram o o v).trans (if_pos rfl)

theorem State.readVram_writeVram_of_ne (s : State) {o j : BitVec 11} (v : Byte) (h : j ≠ o) :
    (s.writeVram o v).readVram j = s.readVram j :=
  (s.readVram_writeVram o j v).trans (if_neg h)

variable {s : State} (h : s.life = .running) (a : Addr) (v : Byte)
include h

theorem exec_ppuRdNt :
    exec (.ppuRdNt a) s = .next (s.answer .ppu (s.readVram (ntOffset a s.mirrorMode))) :=
  State.whenRunning_running h _

theorem exec_ppuWrNt :
    exec (.ppuWrNt a v) s = .next (s.writeVram (ntOffset a s.mirrorMode) v).complete :=
  State.whenRunning_running h _

theorem exec_ppuRdNtMirror :
    exec (.ppuRdNtMirror a) s = .next (s.answer .ppu (s.readVram (ntOffset (mirrorDown a) s.mirrorMode))) :=
  State.whenRunning_running h _

theorem exec_ppuWrNtMirror :
    exec (.ppuWrNtMirror a v) s = .next (s.writeVram (ntOffset (mirrorDown a) s.mirrorMode) v).complete :=
  State.whenRunning_running h _

/-- A nametable read after a store to VRAM, by whether its offset is the one stored to (R141). -/
theorem exec_ppuRdNt_after_writeVram (o : BitVec 11) :
    exec (.ppuRdNt a) (s.writeVram o v).complete = .next ((s.writeVram o v).complete.answer .ppu
      (if ntOffset a s.mirrorMode = o then v else s.readVram (ntOffset a s.mirrorMode))) := by
  rw [← State.readVram_writeVram]
  exact exec_ppuRdNt (s := (s.writeVram o v).complete) h a

theorem exec_ppuRdUnmapped3F :
    exec (.ppuRdUnmapped3F a) s = .next ((s.report (.ppuReadUnmapped a)).answer .ppu 0x00) :=
  State.whenRunning_running h _

theorem exec_ppuWrUnmapped3F :
    exec (.ppuWrUnmapped3F a v) s = .next (s.report (.ppuWriteUnmapped a v)).complete :=
  State.whenRunning_running h _

theorem exec_ppuRdUnmapped :
    exec (.ppuRdUnmapped a) s = .next ((s.report (.ppuReadUnmapped a)).answer .ppu 0x00) :=
  State.whenRunning_running h _

theorem exec_ppuWrUnmapped :
    exec (.ppuWrUnmapped a v) s = .next (s.report (.ppuWriteUnmapped a v)).complete :=
  State.whenRunning_running h _

end Sys2Proof.Machine
end

section
/-! The obligations of 41_ppu_port.md: the pattern tables, the nametables and the unmapped ranges. -/

namespace Sys2Proof.Proofs

open Sys2Proof.Machine

/-- Settles O15: valid CHR-ROM covers the pattern window, so its byte exists; CHR-RAM is indexed by the address. -/
theorem patternReadResolves : Obligations.PatternReadResolves := by
  unfold Obligations.PatternReadResolves
  intro s a d hrunning hvalid ha
  refine ⟨decode_packWord_of_wf (i := .ppuRdPattern a) ((Addr.within_iff ..).mpr ⟨Nat.zero_le _, ha⟩) d,
    chrIndex_toNat ha, fun hrom => ?_, fun hram => exec_ppuRdPattern_of_ram hrunning hram a⟩
  obtain ⟨v, hv⟩ := Cartridge.exists_chrByte hvalid hrom (Nat.lt_succ_of_le ha)
  exact ⟨v, hv, exec_ppuRdPattern_of_rom hrunning hrom hv⟩

/-- Settles O16: over CHR-ROM the meaning only reports, else it stores at one index of CHR-RAM. -/
theorem patternWriteResolves : Obligations.PatternWriteResolves := by
  unfold Obligations.PatternWriteResolves
  intro s a v hrunning ha
  exact ⟨decode_packWord_of_wf (i := .ppuWrPattern a v) ((Addr.within_iff ..).mpr ⟨Nat.zero_le _, ha⟩) 0,
    fun hrom => exec_ppuWrPattern_of_rom hrunning hrom a v,
    fun hram => ⟨_, exec_ppuWrPattern_of_ram hrunning hram a v, rfl, s.readChr_writeChr_same _ v,
      fun _ hk => s.readChr_writeChr_of_ne v hk⟩⟩

/-- Settles O17: in the pattern window different addresses are different indices of CHR-RAM. -/
theorem chrRamWriteThenRead : Obligations.ChrRamWriteThenRead := by
  unfold Obligations.ChrRamWriteThenRead
  intro s a b v hrunning hram ha hb
  refine ⟨_, exec_ppuWrPattern_of_ram hrunning hram a v, ?_⟩
  have hread : (s.writeChr (chrIndex a) v).readChr (chrIndex b) = if b = a then v else s.readChr (chrIndex b) := by
    simp only [State.readChr_writeChr, chrIndex_inj ha hb]
  rw [← hread]
  exact exec_ppuRdPattern_of_ram (s := (s.writeChr (chrIndex a) v).complete) hrunning hram b

/-- Settles O19: the masks keep the low ten or eleven bits, and the half of $2000–$2FFF is address bit 11. -/
theorem mirroringMultiplexerIsBitSelect : Obligations.MirroringMultiplexerIsBitSelect := by
  unfold Obligations.MirroringMultiplexerIsBitSelect
  intro a hlo hhi
  have hten : a.toNat &&& 0x3FF = a.toNat % 0x400 := Nat.and_two_pow_sub_one_eq_mod a.toNat 10
  have heleven : a.toNat &&& 0x7FF = a.toNat % 0x800 := Nat.and_two_pow_sub_one_eq_mod a.toNat 11
  rw [hten, heleven]
  exact ⟨ntOffset_horizontal_toNat a, ntOffset_vertical_toNat a,
    ntOffset_toNat .horizontal hlo hhi, ntOffset_toNat .vertical hlo hhi⟩

/-- Settles O20: between $2000 and $2FFF address bit 11 tells the 2 KiB halves apart, and the vertical offset is the
address modulo 0x800. -/
theorem nametablesFoldByMode : Obligations.NametablesFoldByMode := by
  unfold Obligations.NametablesFoldByMode
  intro a b halo hahi hblo hbhi
  constructor
  · rw [ntOffset_eq_iff .horizontal halo hahi hblo hbhi, ntBit, getLsbD_eq_iff]
    omega
  · rw [← BitVec.toNat_inj, ntOffset_vertical_toNat, ntOffset_vertical_toNat]

/-- Settles O22: the row takes the write, and its meaning stores at the one selected offset. -/
theorem nametableWriteStoresOneByte : Obligations.NametableWriteStoresOneByte := by
  unfold Obligations.NametableWriteStoresOneByte
  intro s a v hrunning hlo hhi
  exact ⟨decode_packWord_of_wf (i := .ppuWrNt a v) ((Addr.within_iff ..).mpr ⟨hlo, hhi⟩) 0,
    _, exec_ppuWrNt hrunning a v, rfl, s.readVram_writeVram_same _ v, fun _ ho => s.readVram_writeVram_of_ne v ho⟩

/-- Settles O23: the mirrored read is the nametable read of the address mapped down, with the same selected bits. -/
theorem mirrorReadAnswersNametable : Obligations.MirrorReadAnswersNametable := by
  unfold Obligations.MirrorReadAnswersNametable
  intro s a d hrunning hlo hhi
  refine ⟨decode_packWord_of_wf (i := .ppuRdNtMirror a) ((Addr.within_iff ..).mpr ⟨hlo, hhi⟩) d,
    mirrorDown_toNat (by omega), ?_, exec_ppuRdNtMirror hrunning a, ?_⟩
  · rw [← getLsbD_ntBit_eq_ite]
    exact ntOffset_mirrorDown_toNat s.mirrorMode hlo hhi
  · rw [exec_ppuRdNt hrunning, exec_ppuRdNtMirror hrunning]

/-- Settles O24: the mirrored write stores where a nametable access of the address mapped down reads. -/
theorem mirrorWriteStoresOneByte : Obligations.MirrorWriteStoresOneByte := by
  unfold Obligations.MirrorWriteStoresOneByte
  intro s a v hrunning hlo hhi
  refine ⟨decode_packWord_of_wf (i := .ppuWrNtMirror a v) ((Addr.within_iff ..).mpr ⟨hlo, hhi⟩) 0,
    mirrorDown_toNat (by omega), _, exec_ppuWrNtMirror hrunning a v, rfl, s.readVram_writeVram_same _ v,
    fun _ ho => s.readVram_writeVram_of_ne v ho, ?_⟩
  rw [exec_ppuRdNt_after_writeVram hrunning, if_pos rfl]
  rfl

/-- Settles O25: the read meets the byte stored exactly when both addresses have one offset. -/
theorem nametableWriteThenRead : Obligations.NametableWriteThenRead := by
  unfold Obligations.NametableWriteThenRead
  intro s a b v hrunning halo hahi hblo hbhi
  have hread := exec_ppuRdNt_after_writeVram hrunning b v (ntOffset a s.mirrorMode)
  refine ⟨_, exec_ppuWrNt hrunning a v, ?_⟩
  rw [← getLsbD_ntBit_eq_iff, ← ntOffset_eq_iff s.mirrorMode halo hahi hblo hbhi]
  constructor
  · intro hsame
    rwa [if_pos hsame.symm] at hread
  · intro hother
    rwa [if_neg (Ne.symm hother)] at hread

/-- Settles O21: the row takes the read, and its meaning answers the byte at the selected offset. -/
theorem nametableReadAnswersVram : Obligations.NametableReadAnswersVram := by
  unfold Obligations.NametableReadAnswersVram
  intro s a d hrunning hlo hhi
  exact ⟨decode_packWord_of_wf (i := .ppuRdNt a) ((Addr.within_iff ..).mpr ⟨hlo, hhi⟩) d, exec_ppuRdNt hrunning a⟩

/-- Settles O26: the row takes the read, and its meaning reports and answers the sentinel. -/
theorem paletteRangeReadAnswersZero : Obligations.PaletteRangeReadAnswersZero := by
  unfold Obligations.PaletteRangeReadAnswersZero
  intro s a d hrunning hlo hhi
  exact ⟨decode_packWord_of_wf (i := .ppuRdUnmapped3F a) ((Addr.within_iff ..).mpr ⟨hlo, hhi⟩) d,
    exec_ppuRdUnmapped3F hrunning a⟩

/-- Settles O27: the row takes the write, and its meaning only reports it. -/
theorem paletteRangeWriteIsDiscarded : Obligations.PaletteRangeWriteIsDiscarded := by
  unfold Obligations.PaletteRangeWriteIsDiscarded
  intro s a v hrunning hlo hhi
  exact ⟨decode_packWord_of_wf (i := .ppuWrUnmapped3F a v) ((Addr.within_iff ..).mpr ⟨hlo, hhi⟩) 0,
    exec_ppuWrUnmapped3F hrunning a v⟩

/-- Settles O28: the row takes the read with its whole address, and its meaning reports and answers the sentinel. -/
theorem ppuUnmappedReadAnswersZero : Obligations.PpuUnmappedReadAnswersZero := by
  unfold Obligations.PpuUnmappedReadAnswersZero
  intro s a d hrunning hlo
  exact ⟨decode_packWord_of_wf (i := .ppuRdUnmapped a)
      ((Addr.within_iff ..).mpr ⟨hlo, Nat.le_of_lt_succ a.isLt⟩) d,
    exec_ppuRdUnmapped hrunning a⟩

/-- Settles O29: the row takes the write with its whole address, and its meaning only reports it. -/
theorem ppuUnmappedWriteIsDiscarded : Obligations.PpuUnmappedWriteIsDiscarded := by
  unfold Obligations.PpuUnmappedWriteIsDiscarded
  intro s a v hrunning hlo
  exact ⟨decode_packWord_of_wf (i := .ppuWrUnmapped a v)
      ((Addr.within_iff ..).mpr ⟨hlo, Nat.le_of_lt_succ a.isLt⟩) 0,
    exec_ppuWrUnmapped hrunning a v⟩

end Sys2Proof.Proofs
end

section
/-! SUPPORT. The one transition into Halted, and the explanation of the latch through each request (60_exceptions.md
R173, R175). -/

namespace Sys2Proof.Machine

/-- A transaction that halts the block is a switchable read past the end of PRG ROM, and its next state is the
fault entry. -/
theorem exec_halts {i : Instr} {s t : State} (h : exec i s = .next t) (hhalted : t.life = .halted) :
    ∃ a, i = .cpuRdPrgSwitch a ∧ s.cfg.prgLen ≤ prgSwitchOffset a s.bankSelect ∧
      t = s.raise { code := .bankRange, addr := a, data := s.bankSelect } := by
  obtain ⟨hrunning, hcases⟩ := exec_cases h
  rcases hcases with hfault | ⟨_, _, _, rfl⟩ | ⟨_, _, _, rfl⟩ | ⟨_, _, rfl⟩ | ⟨_, _, rfl⟩ | ⟨_, _, _, rfl⟩ |
    ⟨_, _, _, rfl⟩ | ⟨_, _, _, rfl⟩ | ⟨_, _, _, ⟨_, rfl⟩ | ⟨_, rfl⟩⟩ | ⟨_, _, _, _, rfl⟩
  · exact hfault
  all_goals exact nomatch hrunning.symm.trans hhalted -- the other shapes leave `life`

/-- A fault entered by an operation in its row's range is explained: the bound check counts whole banks. -/
theorem exec_faultExplained {i : Instr} {s t : State} (hwf : i.wf = true) (hvalid : s.cfg.valid = true)
    (h : exec i s = .next t) : t.FaultExplained := by
  intro hhalted
  obtain ⟨a, rfl, hle, rfl⟩ := exec_halts h hhalted
  obtain ⟨hlo, hhi⟩ := (Addr.within_iff ..).mp hwf
  exact ⟨a, hlo, hhi, rfl, (prgLen_le_prgSwitchOffset_iff hvalid hhi s.bankSelect).mp hle⟩

/-- An error of `init` is returned, not latched (R172). -/
theorem State.runInit_life_ne_halted (s : State) (p : Params) : (s.runInit p).life ≠ .halted := by
  obtain ⟨m, -, -, -, heq⟩ | ⟨r, heq⟩ := s.runInit_cases p
  · rw [heq, State.initialise_life]; nofun
  · rw [heq, State.rejectInit_life]; nofun

theorem State.takeRequest_faultExplained {s : State} (hs : s.FaultExplained) : s.takeRequest.2.FaultExplained := by
  obtain ⟨r, rest, -, heq⟩ | ⟨-, heq⟩ := s.takeRequest_cases
  · exact heq ▸ hs
  · exact heq ▸ hs

theorem serve_faultExplained {r : Request} {s t : State} (hconsistent : s.LifecycleConsistent)
    (hs : s.FaultExplained) (h : serve r s = .next t) : t.FaultExplained := by
  obtain ⟨w, -, hexec⟩ | ⟨p, -, -, rfl⟩ | ⟨-, -, rfl⟩ | ⟨o, v, -, rfl⟩ | ⟨-, rfl⟩ := serve_cases h
  · obtain ⟨hwf, -⟩ := Proofs.decodedOperationHasItsRowsRange w
    obtain ⟨hvalid, -⟩ := hconsistent
    obtain ⟨hrunning, -⟩ := exec_cases hexec
    exact exec_faultExplained hwf (hvalid (by simp [hrunning])) hexec
  · exact fun hhalted => absurd hhalted (s.runInit_life_ne_halted p)
  · exact nofun
  · exact hs
  · exact hs

end Sys2Proof.Machine
end

section
/-! SUPPORT. The stopped states: what each request to the block meets in Halted and in Absent (60_exceptions.md R176;
log entry 7). -/

namespace Sys2Proof.Machine

/-- Every operation begins with the check of `life`. -/
theorem exec_eq_whenRunning (i : Instr) (s : State) : ∃ k, exec i s = s.whenRunning k := by
  cases i <;> exact ⟨_, rfl⟩

theorem exec_of_halted {s : State} (h : s.life = .halted) (i : Instr) : exec i s = .fault .haltedInstance := by
  obtain ⟨k, hk⟩ := exec_eq_whenRunning i s
  rw [hk, State.whenRunning_halted h]

theorem exec_of_absent {s : State} (h : s.life = .absent) (i : Instr) : exec i s = .fault .noInstance := by
  obtain ⟨k, hk⟩ := exec_eq_whenRunning i s
  rw [hk, State.whenRunning_absent h]

theorem execInit_of_halted {s : State} (h : s.life = .halted) (p : Params) :
    execInit p s = .fault .initWhilePresent := by
  rw [execInit, h]

theorem execUnload_of_halted {s : State} (h : s.life = .halted) :
    execUnload s = .next { s.discard with response := .unloaded } := by
  rw [execUnload, h]

theorem execUnload_of_absent {s : State} (h : s.life = .absent) : execUnload s = .fault .unloadWhileAbsent := by
  rw [execUnload, h]

end Sys2Proof.Machine
end

section
/-! SUPPORT. The two ports (60_exceptions.md R187): the fields an operation of each port answers from, and that no
operation of the other port writes them. -/

namespace Sys2Proof.Machine

/-- A CPU-port operation answers from `life`, the configuration record and `bank_select`. -/
theorem responseOf_exec_congr_cpu {j : Instr} {s t : State} (hport : j.onCpuPort = true) (hlife : t.life = s.life)
    (hcfg : t.cfg = s.cfg) (hbank : t.bankSelect = s.bankSelect) : responseOf (exec j t) = responseOf (exec j s) := by
  simp only [responseOf_exec, hlife, hcfg, hbank]
  cases j with
  | ppuRdPattern | ppuRdNt | ppuRdNtMirror => cases hport
  | _ => rfl

/-- A PPU-port operation answers from `life`, the configuration record, the mirroring mode and the two memories. -/
theorem responseOf_exec_congr_ppu {j : Instr} {s t : State} (hport : j.onCpuPort = false) (hlife : t.life = s.life)
    (hcfg : t.cfg = s.cfg) (hmirror : t.mirrorMode = s.mirrorMode) (hchr : t.chrRam = s.chrRam)
    (hvram : t.vram = s.vram) : responseOf (exec j t) = responseOf (exec j s) := by
  simp only [responseOf_exec, State.readChr, State.readVram, hlife, hcfg, hmirror, hchr, hvram]
  cases j with
  | cpuRdPrgSwitch => cases hport
  | _ => rfl

theorem exec_ppu_bankSelect {i : Instr} {s t : State} (hport : i.onCpuPort = false) (h : exec i s = .next t) :
    t.bankSelect = s.bankSelect := by
  obtain hbank | ⟨a, v, rfl⟩ := (exec_frame h).bankSelect
  · exact hbank
  · cases hport

/-- No operation of the CPU port names a byte of CHR-RAM or VRAM. -/
theorem stores_eq_none_of_cpu {i : Instr} (hport : i.onCpuPort = true) (s : State) :
    chrStore i s = none ∧ vramStore i s = none := by
  cases i with
  | ppuWrPattern | ppuWrNt | ppuWrNtMirror => cases hport
  | _ => exact ⟨rfl, rfl⟩

theorem exec_cpu_memories {i : Instr} {s t : State} (hport : i.onCpuPort = true) (h : exec i s = .next t) :
    t.chrRam = s.chrRam ∧ t.vram = s.vram := by
  obtain ⟨hchr, hvram⟩ := stores_eq_none_of_cpu hport s
  obtain hkept | ⟨k, v, hstore, -⟩ | ⟨o, v, hstore, -⟩ := exec_stores h
  · exact hkept
  · exact nomatch hchr.symm.trans hstore
  · exact nomatch hvram.symm.trans hstore

end Sys2Proof.Machine
end

section
/-! The obligations of 60_exceptions.md: the fault and its entry, the stopped states, the trace and the two ports. -/

namespace Sys2Proof.Proofs

open Sys2Proof.Machine

/-- Settles O57: a decoded operation is in its row's range, so the one transition into Halted is explained, and in
Halted no operation has a step that could change the bank. -/
theorem stepKeepsFaultExplained : Obligations.StepKeepsFaultExplained :=
  fun _ _ hconsistent hs h =>
    serve_faultExplained (State.takeRequest_lifecycleConsistent hconsistent) (State.takeRequest_faultExplained hs) h

/-- Settles O32: an operation continues every trace with the event of the table, and so also the trace it meets. -/
theorem diagnosticTraceGrowsByTable : Obligations.DiagnosticTraceGrowsByTable := by
  unfold Obligations.DiagnosticTraceGrowsByTable
  refine ⟨fun i s t h => ?_, fun _ _ => ⟨rfl, rfl, rfl, rfl, rfl⟩⟩
  have htrace : exec i s = .next { t with diag := s.diag ++ (eventOf i s).toList } :=
    noOperationReadsTheTrace i s t s.diag h
  rw [h, Host.Outcome.next.injEq] at htrace
  exact congrArg State.diag htrace

/-- Settles O35: no field that one port answers from is written by a completed operation of the other. -/
theorem portsDoNotInterfere : Obligations.PortsDoNotInterfere := by
  unfold Obligations.PortsDoNotInterfere
  intro i j s t hports h hrunning
  obtain ⟨hbefore, -⟩ := exec_cases h
  have hlife : t.life = s.life := hrunning.trans hbefore.symm
  have hframe := exec_frame h
  cases hi : i.onCpuPort with
  | true =>
    have hj : j.onCpuPort = false := by simpa [hi] using hports
    obtain ⟨hchr, hvram⟩ := exec_cpu_memories hi h
    exact responseOf_exec_congr_ppu hj hlife hframe.cfg hframe.mirrorMode hchr hvram
  | false =>
    have hj : j.onCpuPort = true := by simpa [hi] using hports
    exact responseOf_exec_congr_cpu hj hlife hframe.cfg (exec_ppu_bankSelect hi h)

/-- Settles O37: the only way into Halted is the bound check of the switchable read, which counts whole banks. -/
theorem onlyOutOfRangeSwitchableReadFaults : Obligations.OnlyOutOfRangeSwitchableReadFaults := by
  unfold Obligations.OnlyOutOfRangeSwitchableReadFaults
  intro i s hwf hrunning hvalid
  obtain ⟨t, h⟩ := exec_next_of_wf hwf hrunning hvalid
  refine ⟨t, h, ⟨fun hhalted => ?_, ?_⟩, fun hhalted => ?_⟩
  · obtain ⟨-, -, -, -, hbank⟩ := exec_faultExplained hwf hvalid h hhalted
    obtain ⟨a, hi, -, rfl⟩ := exec_halts h hhalted
    exact ⟨⟨a, hi⟩, hbank⟩
  · rintro ⟨⟨a, rfl⟩, hbank⟩
    obtain ⟨-, hhi⟩ := (Addr.within_iff ..).mp hwf
    have hle := (prgLen_le_prgSwitchOffset_iff hvalid hhi s.bankSelect).mpr hbank
    rw [exec_cpuRdPrgSwitch_of_le hrunning hle, Host.Outcome.next.injEq] at h
    rw [← h, State.raise_life]
  · obtain ⟨a, rfl, -, rfl⟩ := exec_halts h hhalted
    rfl

/-- Settles O38: the next state of the one operation that halts is the fault entry. -/
theorem faultEntryChangesNothingElse : Obligations.FaultEntryChangesNothingElse := by
  unfold Obligations.FaultEntryChangesNothingElse
  intro i s t h hhalted
  obtain ⟨a, rfl, -, rfl⟩ := exec_halts h hhalted
  rfl

/-- Settles O39: every operation checks `life` first, and the lifecycle requests decide by it. -/
theorem stoppedStatesHaveNoStep : Obligations.StoppedStatesHaveNoStep := by
  unfold Obligations.StoppedStatesHaveNoStep
  exact fun s => ⟨fun i => ⟨fun hhalted => exec_of_halted hhalted i, fun habsent => exec_of_absent habsent i⟩,
    fun hhalted => ⟨execInit_of_halted hhalted, _, execUnload_of_halted hhalted⟩,
    fun habsent => ⟨execUnload_of_absent habsent, fun p => ⟨_, execInit_of_absent p habsent⟩⟩⟩

end Sys2Proof.Proofs
end

section
/-! SUPPORT. `init` by the check that fails, the VRAM it takes, the reading of the header byte as a table, and `unload`
(70_reset_and_hazards.md R201–R205). -/

namespace Sys2Proof.Machine

/-- Check 1 of `init`, as R201 writes its conditions. -/
theorem geometryOkOf_iff (p : Params) : geometryOkOf p = true ↔ geometryConditions p := geometryOk_iff ..

theorem State.runInit_of_bad_geometry (s : State) {p : Params} (hgeometry : ¬ geometryOkOf p = true) :
    s.runInit p = s.rejectInit { code := .geometry, addr := 0, data := 0 } := by
  rw [State.runInit, if_neg hgeometry]

theorem State.runInit_of_invalid_mirror (s : State) {p : Params} (hgeometry : geometryOkOf p = true)
    (hmirror : readMirror p.mirrorDecode p.headerByte = none) :
    s.runInit p = s.rejectInit { code := .mirrorConfig, addr := 0, data := p.headerByte } := by
  rw [State.runInit, if_pos hgeometry, hmirror]

theorem State.runInit_of_failed_allocation (s : State) {p : Params} (hgeometry : geometryOkOf p = true)
    (hmirror : readMirror p.mirrorDecode p.headerByte ≠ none) (halloc : p.allocOk = false) :
    s.runInit p = s.rejectInit { code := .resource, addr := 0, data := 0 } := by
  obtain ⟨m, hm⟩ := Option.ne_none_iff_exists'.mp hmirror
  rw [State.runInit, if_pos hgeometry, hm]
  exact if_neg (by rw [halloc]; nofun)

/-- An error of `init` leaves the block Absent with no latch, and takes no VRAM handle (R172; log entry 19). -/
theorem execInit_of_rejected {s : State} {p : Params} {r : FaultRecord} (habsent : s.life = .absent)
    (h : s.runInit p = s.rejectInit r) :
    ∃ t, execInit p s = .next t ∧ t.life = .absent ∧ t.fault = none ∧ t.vram = s.vram ∧
      t.response = .initFailed r :=
  ⟨s.rejectInit r, (execInit_of_absent p habsent).trans (congrArg _ h), rfl, rfl, rfl, rfl⟩

/-- Another VRAM handed over reads as its contents list, and as the free value where they list nothing (R188). -/
theorem State.readVram_of_handed_other {t : State} {bytes : List Host.Cell}
    (h : t.vram = Memory.ofCells none Config.vramSize bytes) (o : BitVec 11) :
    t.readVram o = (Memory.lookup bytes o.toNat).getD (Config.vramInit o.toNat) := by
  have ho : o.toNat < Config.vramSize := o.isLt
  rw [State.readVram, h, Memory.lookup_ofCells_none _ _ _ ho]

/-- The rows that give the header bytes `keys` the modes of the reading `f`; one that `f` calls Invalid has no row. -/
def mirrorRows (f : Byte → Option MirrorMode) : List Byte → List (Byte × MirrorMode)
  | [] => []
  | k :: rest =>
    match f k with
    | some m => (k, m) :: mirrorRows f rest
    | none => mirrorRows f rest

theorem lookupMirror_mirrorRows (f : Byte → Option MirrorMode) (keys : List Byte) (h : Byte) :
    lookupMirror (mirrorRows f keys) h = if h ∈ keys then f h else none := by
  induction keys with
  | nil => rfl
  | cons k rest ih =>
    obtain rfl | hk := eq_or_ne k h
    · cases hf : f k with
      | some m => simp [mirrorRows, lookupMirror, hf]
      | none => simp [mirrorRows, hf, ih]
    · have hmem : h ∈ k :: rest ↔ h ∈ rest := by simp [hk.symm]
      cases hf : f k with
      | some m => simp only [mirrorRows, hf, lookupMirror, if_neg hk, ih, hmem]
      | none => simp only [mirrorRows, hf, ih, hmem]

theorem readMirror_ines (h : Byte) : readMirror .ines h =
    if h.getLsbD 3 then none else if h.getLsbD 0 then some .vertical else some .horizontal := rfl

theorem execUnload_of_present {s : State} (h : s.life ≠ .absent) :
    execUnload s = .next { s.discard with response := .unloaded } := by
  cases hlife : s.life with
  | absent => exact absurd hlife h
  | running => rw [execUnload, hlife]
  | halted => exact execUnload_of_halted hlife

/-- Beside the outputs, VRAM and the schedule alone determine the discarded block (R204). -/
theorem State.discard_congr {s s' : State} (hvram : s.vram = s'.vram) (hrequests : s.requests = s'.requests)
    (hscheduled : s.scheduled = s'.scheduled) (r : Response) :
    ({ s.discard with response := r } : State) = { s'.discard with response := r } := by
  rw [State.discard, State.discard, hvram, hrequests, hscheduled]

end Sys2Proof.Machine
end

section
/-! The obligations of 70_reset_and_hazards.md: `init` and its checks, `unload`, and the events outside the block. -/

namespace Sys2Proof.Proofs

open Sys2Proof.Machine

/-- Settles O41: the next state is the initialised one, whose VRAM is the one of the handle. -/
theorem successfulInitSetsResetValues : Obligations.SuccessfulInitSetsResetValues := by
  unfold Obligations.SuccessfulInitSetsResetValues
  intro s p m habsent hgeometry hmirror halloc
  have hinit : execInit p s = .next (s.initialise p m) :=
    (execInit_of_absent p habsent).trans
      (congrArg _ (s.runInit_of_checks ((geometryOkOf_iff p).mpr hgeometry) hmirror halloc))
  refine ⟨_, hinit, rfl, rfl, rfl, fun _ => rfl, rfl, rfl, rfl, rfl, rfl, rfl, rfl, rfl, fun hheld => ?_,
    fun bytes hother o => State.readVram_of_handed_other ?_ o, rfl⟩
  · rw [State.initialise_vram, hheld, handedVram_held]
  · rw [State.initialise_vram, hother, handedVram_other]

/-- Settles O43, by the first check that fails. -/
theorem failedInitReportsFirstFailedCheck : Obligations.FailedInitReportsFirstFailedCheck := by
  unfold Obligations.FailedInitReportsFirstFailedCheck
  intro s p habsent
  rw [← geometryOkOf_iff]
  exact ⟨fun hgeometry => execInit_of_rejected habsent (s.runInit_of_bad_geometry hgeometry),
    fun hgeometry hmirror => execInit_of_rejected habsent (s.runInit_of_invalid_mirror hgeometry hmirror),
    fun hgeometry hmirror halloc =>
      execInit_of_rejected habsent (s.runInit_of_failed_allocation hgeometry hmirror halloc),
    rfl, rfl, rfl⟩

/-- Settles O45: the header bytes are finitely many, so the table can have a row for each. -/
theorem everyMirrorDecodeIsExpressible : Obligations.EveryMirrorDecodeIsExpressible := by
  unfold Obligations.EveryMirrorDecodeIsExpressible
  intro f
  refine ⟨mirrorRows f (List.ofFn (BitVec.ofFin (w := 8))), fun h => ?_⟩
  have hmem : h ∈ List.ofFn (BitVec.ofFin (w := 8)) := List.mem_ofFn.mpr ⟨h.toFin, rfl⟩
  exact (lookupMirror_mirrorRows f _ h).trans (if_pos hmem)

/-- Settles O47: the two blocks are already equal after `unload`. -/
theorem nothingSurvivesReplacement : Obligations.NothingSurvivesReplacement := by
  unfold Obligations.NothingSurvivesReplacement
  intro s s' p hpresent hpresent' hvram hrequests hscheduled
  have hunload := execUnload_of_present hpresent
  rw [State.discard_congr hvram hrequests hscheduled] at hunload
  exact ⟨_, _, _, hunload, execUnload_of_present hpresent', execInit_of_absent p rfl, execInit_of_absent p rfl⟩

/-- Settles O44, by the two bits that the reading tests. -/
theorem defaultMirrorDecode : Obligations.DefaultMirrorDecode := by
  unfold Obligations.DefaultMirrorDecode
  intro h
  rw [readMirror_ines]
  exact ⟨fun h3 => if_pos h3, fun h3 h0 => by rw [h3, h0]; rfl, fun h3 h0 => by rw [h3, h0]; rfl⟩

/-- Settles O46: what `unload` leaves is the discarded block. -/
theorem unloadDiscardsTheInstance : Obligations.UnloadDiscardsTheInstance :=
  fun _ hpresent => ⟨_, execUnload_of_present hpresent, rfl, rfl, rfl, rfl, rfl, rfl, rfl, fun _ => rfl⟩

/-- Settles O48: the reset has no effect, and the write is the store of one byte of VRAM. -/
theorem outsideEventsSpareTheBlock : Obligations.OutsideEventsSpareTheBlock :=
  fun s o v => ⟨rfl, s.writeVram o v, rfl, rfl, s.readVram_writeVram_same o v,
    fun _ hne => s.readVram_writeVram_of_ne v hne⟩

end Sys2Proof.Proofs
end
